-- ==== Sys2Proof/Word.lean ====
section
/-! DEFINITION. The words of rj32: a 16-bit word, an 8-bit byte (00_scope.md R9). -/

namespace Sys2Proof

/-- A *word*: a 16-bit value (R9). Registers, the pc, addresses and instruction words are words. -/
abbrev Word := BitVec 16

/-- A *byte*: an 8-bit value (R9). -/
abbrev Byte := BitVec 8

/-- A 4-bit register number, the `rd` or `rs` field of an instruction (R20, R82). -/
abbrev RegNum := BitVec 4

/-- A 4-bit CSR number (R32, R129). -/
abbrev CsrNum := BitVec 4

end Sys2Proof
end

