-- ==== Sys2Proof/Syntax.lean ====
section
/-! DEFINITION. The instructions of rj32, one constructor per row of spec/opcode_table.json
(30_encoding.md R96). Register numbers and immediates have the exact width of their field (R82); "N/A"
fields are no operand (R100, log 14). -/

namespace Sys2Proof

/-- One decoded instruction. A name ends in its format where the mnemonic exists in two (R81): `Rr`
register form, `Ri6`, `Ri8`, `I11` immediate form. -/
inductive Instr where
  /-- `nop` - no operation (R125). -/
  | nop
  /-- `rets` - return to/from system (R126). -/
  | rets
  /-- `error` - halt with error (R127). -/
  | error
  /-- `halt` - halt without error (R128). -/
  | halt
  /-- `rcsr rd, csr` - read csr (R129). -/
  | rcsr (rd : RegNum) (csr : CsrNum)
  /-- `wcsr csr, rd` - write csr; `rd` is the source (R130). -/
  | wcsr (csr : CsrNum) (rd : RegNum)
  /-- `move rd, rs` (R140). -/
  | moveRr (rd rs : RegNum)
  /-- `move rd, imm8` (R141). -/
  | moveRi8 (rd : RegNum) (imm8 : BitVec 8)
  /-- `loadc rd, rs` - load constant (R142). -/
  | loadcRr (rd rs : RegNum)
  /-- `loadc rd, imm8` (R143). -/
  | loadcRi8 (rd : RegNum) (imm8 : BitVec 8)
  /-- `jump rd` - set program counter (R150). -/
  | jumpRr (rd : RegNum)
  /-- `jump imm11`, relative (R151). -/
  | jumpI11 (imm11 : BitVec 11)
  /-- `imm imm12` - extend immediate; decoded op 9 or 11 (R90, R131). -/
  | imm (imm12 : BitVec 12)
  /-- `call rd` (R154). -/
  | callRr (rd : RegNum)
  /-- `call imm11`, relative (R153). -/
  | callI11 (imm11 : BitVec 11)
  /-- `load rd, [rs, imm4]` - load word (R161). -/
  | load (rd rs : RegNum) (imm4 : BitVec 4)
  /-- `store [rs, imm4], rd` - store word (R162). -/
  | store (rd rs : RegNum) (imm4 : BitVec 4)
  /-- `loadb rd, [rs, imm4]` - load byte (R163). -/
  | loadb (rd rs : RegNum) (imm4 : BitVec 4)
  /-- `storeb [rs, imm4], rd` - store byte (R164). -/
  | storeb (rd rs : RegNum) (imm4 : BitVec 4)
  /-- `add rd, rs` (R172). -/
  | addRr (rd rs : RegNum)
  /-- `add rd, imm6` (R173). -/
  | addRi6 (rd : RegNum) (imm6 : BitVec 6)
  /-- `sub rd, rs` (R174). -/
  | subRr (rd rs : RegNum)
  /-- `sub rd, imm6` (R175). -/
  | subRi6 (rd : RegNum) (imm6 : BitVec 6)
  /-- `addc rd, rs` (R176). -/
  | addcRr (rd rs : RegNum)
  /-- `addc rd, imm6` (R177). -/
  | addcRi6 (rd : RegNum) (imm6 : BitVec 6)
  /-- `subc rd, rs` (R178). -/
  | subcRr (rd rs : RegNum)
  /-- `subc rd, imm6` (R179). -/
  | subcRi6 (rd : RegNum) (imm6 : BitVec 6)
  /-- `xor rd, rs` (R191). -/
  | xorRr (rd rs : RegNum)
  /-- `xor rd, imm6` (R192). -/
  | xorRi6 (rd : RegNum) (imm6 : BitVec 6)
  /-- `and rd, rs` (R193). -/
  | andRr (rd rs : RegNum)
  /-- `and rd, imm6` (R194). -/
  | andRi6 (rd : RegNum) (imm6 : BitVec 6)
  /-- `or rd, rs` (R195). -/
  | orRr (rd rs : RegNum)
  /-- `or rd, imm6` (R196). -/
  | orRi6 (rd : RegNum) (imm6 : BitVec 6)
  /-- `shl rd, rs` (R198). -/
  | shlRr (rd rs : RegNum)
  /-- `shl rd, imm6` (R199). -/
  | shlRi6 (rd : RegNum) (imm6 : BitVec 6)
  /-- `shr rd, rs` (R200). -/
  | shrRr (rd rs : RegNum)
  /-- `shr rd, imm6` (R201). -/
  | shrRi6 (rd : RegNum) (imm6 : BitVec 6)
  /-- `asr rd, rs` (R202). -/
  | asrRr (rd rs : RegNum)
  /-- `asr rd, imm6` (R203). -/
  | asrRi6 (rd : RegNum) (imm6 : BitVec 6)
  /-- `if.eq rd, rs` (R212). -/
  | ifEqRr (rd rs : RegNum)
  /-- `if.eq rd, imm6` (R213). -/
  | ifEqRi6 (rd : RegNum) (imm6 : BitVec 6)
  /-- `if.ne rd, rs` (R214). -/
  | ifNeRr (rd rs : RegNum)
  /-- `if.ne rd, imm6` (R215). -/
  | ifNeRi6 (rd : RegNum) (imm6 : BitVec 6)
  /-- `if.lt rd, rs` (R216). -/
  | ifLtRr (rd rs : RegNum)
  /-- `if.lt rd, imm6` (R217). -/
  | ifLtRi6 (rd : RegNum) (imm6 : BitVec 6)
  /-- `if.ge rd, rs` (R218). -/
  | ifGeRr (rd rs : RegNum)
  /-- `if.ge rd, imm6` (R219). -/
  | ifGeRi6 (rd : RegNum) (imm6 : BitVec 6)
  /-- `if.ult rd, rs` (R220). -/
  | ifUltRr (rd rs : RegNum)
  /-- `if.ult rd, imm6` (R221). -/
  | ifUltRi6 (rd : RegNum) (imm6 : BitVec 6)
  /-- `if.uge rd, rs` (R222). -/
  | ifUgeRr (rd rs : RegNum)
  /-- `if.uge rd, imm6` (R223). -/
  | ifUgeRi6 (rd : RegNum) (imm6 : BitVec 6)
  /-- Reserved: the rr word `w` names op 9 or 11 (R97). -/
  | reservedOp9or11 (w : Word)
  /-- Reserved: the rr word `w` names op 12 to 15 (R98). -/
  | reservedOp12to15 (w : Word)
  /-- Reserved: the rr word `w` has bit 7 set (R99). -/
  | reservedBit7 (w : Word)
deriving DecidableEq, Repr

/-- The six instruction formats (R81). -/
inductive Format where
  | rr
  | ri6
  | ri8
  | ls
  | i11
  | i12
deriving DecidableEq, Repr

end Sys2Proof
end

