-- ==== Sys2Proof/WellFormed.lean ====
section
/-! DEFINITION. Which terms of `Instr` are instructions. Every operand field has its exact width in the
type, so only the three reserved constructors, which carry their word, can be ill-formed. -/

namespace Sys2Proof

/-- A reserved constructor's word lies in that reserved space: the mask and match of its row of the
opcode table (R97, R98, R99). -/
def Instr.wellFormed : Instr → Bool
  | .nop => true
  | .rets => true
  | .error => true
  | .halt => true
  | .rcsr _ _ => true
  | .wcsr _ _ => true
  | .moveRr _ _ => true
  | .moveRi8 _ _ => true
  | .loadcRr _ _ => true
  | .loadcRi8 _ _ => true
  | .jumpRr _ => true
  | .jumpI11 _ => true
  | .imm _ => true
  | .callRr _ => true
  | .callI11 _ => true
  | .load _ _ _ => true
  | .store _ _ _ => true
  | .loadb _ _ _ => true
  | .storeb _ _ _ => true
  | .addRr _ _ => true
  | .addRi6 _ _ => true
  | .subRr _ _ => true
  | .subRi6 _ _ => true
  | .addcRr _ _ => true
  | .addcRi6 _ _ => true
  | .subcRr _ _ => true
  | .subcRi6 _ _ => true
  | .xorRr _ _ => true
  | .xorRi6 _ _ => true
  | .andRr _ _ => true
  | .andRi6 _ _ => true
  | .orRr _ _ => true
  | .orRi6 _ _ => true
  | .shlRr _ _ => true
  | .shlRi6 _ _ => true
  | .shrRr _ _ => true
  | .shrRi6 _ _ => true
  | .asrRr _ _ => true
  | .asrRi6 _ _ => true
  | .ifEqRr _ _ => true
  | .ifEqRi6 _ _ => true
  | .ifNeRr _ _ => true
  | .ifNeRi6 _ _ => true
  | .ifLtRr _ _ => true
  | .ifLtRi6 _ _ => true
  | .ifGeRr _ _ => true
  | .ifGeRi6 _ _ => true
  | .ifUltRr _ _ => true
  | .ifUltRi6 _ _ => true
  | .ifUgeRr _ _ => true
  | .ifUgeRi6 _ _ => true
  | .reservedOp9or11 w => w &&& 0x00F7#16 == 0x0024#16
  | .reservedOp12to15 w => w &&& 0x00F3#16 == 0x0030#16
  | .reservedBit7 w => w &&& 0x0083#16 == 0x0080#16

end Sys2Proof
end

