-- ==== Sys2Proof/Decode.lean ====
section
/-! DEFINITION. The decoder, total on 16-bit words (30_encoding.md R95), the encoder written from the
format diagrams (R83 to R90), and the opcode table's masks and matches (R106). -/

namespace Sys2Proof

/-- `fmt = w[1:0]` (R81). -/
def fmtField (w : Word) : BitVec 2 := w.extractLsb' 0 2
/-- `rd = w[15:12]` in every format with a register (R82). -/
def rdField (w : Word) : RegNum := w.extractLsb' 12 4
/-- `rs = w[11:8]` in rr and ls; the CSR number in rcsr, wcsr (R82, R129). -/
def rsField (w : Word) : RegNum := w.extractLsb' 8 4
/-- `op = w[6:2]`, the rr format's opcode (R83). -/
def opField (w : Word) : BitVec 5 := w.extractLsb' 2 5
/-- `w[5:2]`, the ri6 format's `func`: the low four bits of the opcode (R84). -/
def funcField (w : Word) : BitVec 4 := w.extractLsb' 2 4
/-- `w[3:2]`, the ls format's op bits (R88). -/
def lsOpField (w : Word) : BitVec 2 := w.extractLsb' 2 2
/-- `imm4 = w[7:4]` (R82). -/
def imm4Field (w : Word) : BitVec 4 := w.extractLsb' 4 4
/-- `imm6 = w[11:6]` (R82). -/
def imm6Field (w : Word) : BitVec 6 := w.extractLsb' 6 6
/-- `imm8 = w[11:4]` (R82). -/
def imm8Field (w : Word) : BitVec 8 := w.extractLsb' 4 8
/-- `imm11 = w[15:5]` (R82). -/
def imm11Field (w : Word) : BitVec 11 := w.extractLsb' 5 11
/-- `imm12 = w[15:4]` (R82). -/
def imm12Field (w : Word) : BitVec 12 := w.extractLsb' 4 12

/-- The rr format (R83, R95): bit 7 is reserved (R99), op 9 and 11 (R97) and op 12 to 15 (R98) too. -/
def decodeRr (w : Word) : Instr :=
  if w[7] then .reservedBit7 w
  else match (opField w).toNat with
    | 0 => .nop
    | 1 => .rets
    | 2 => .error
    | 3 => .halt
    | 4 => .rcsr (rdField w) (rsField w)
    | 5 => .wcsr (rsField w) (rdField w)
    | 6 => .moveRr (rdField w) (rsField w)
    | 7 => .loadcRr (rdField w) (rsField w)
    | 8 => .jumpRr (rdField w)
    | 9 => .reservedOp9or11 w
    | 10 => .callRr (rdField w)
    | 11 => .reservedOp9or11 w
    | 12 => .reservedOp12to15 w
    | 13 => .reservedOp12to15 w
    | 14 => .reservedOp12to15 w
    | 15 => .reservedOp12to15 w
    | 16 => .addRr (rdField w) (rsField w)
    | 17 => .subRr (rdField w) (rsField w)
    | 18 => .addcRr (rdField w) (rsField w)
    | 19 => .subcRr (rdField w) (rsField w)
    | 20 => .xorRr (rdField w) (rsField w)
    | 21 => .andRr (rdField w) (rsField w)
    | 22 => .orRr (rdField w) (rsField w)
    | 23 => .shlRr (rdField w) (rsField w)
    | 24 => .shrRr (rdField w) (rsField w)
    | 25 => .asrRr (rdField w) (rsField w)
    | 26 => .ifEqRr (rdField w) (rsField w)
    | 27 => .ifNeRr (rdField w) (rsField w)
    | 28 => .ifLtRr (rdField w) (rsField w)
    | 29 => .ifGeRr (rdField w) (rsField w)
    | 30 => .ifUltRr (rdField w) (rsField w)
    | _ => .ifUgeRr (rdField w) (rsField w)   -- op 31, the last 5-bit value

/-- The ri6 format: op = 16 + w[5:2] (R84, R95). -/
def decodeRi6 (w : Word) : Instr :=
  match (funcField w).toNat with
  | 0 => .addRi6 (rdField w) (imm6Field w)
  | 1 => .subRi6 (rdField w) (imm6Field w)
  | 2 => .addcRi6 (rdField w) (imm6Field w)
  | 3 => .subcRi6 (rdField w) (imm6Field w)
  | 4 => .xorRi6 (rdField w) (imm6Field w)
  | 5 => .andRi6 (rdField w) (imm6Field w)
  | 6 => .orRi6 (rdField w) (imm6Field w)
  | 7 => .shlRi6 (rdField w) (imm6Field w)
  | 8 => .shrRi6 (rdField w) (imm6Field w)
  | 9 => .asrRi6 (rdField w) (imm6Field w)
  | 10 => .ifEqRi6 (rdField w) (imm6Field w)
  | 11 => .ifNeRi6 (rdField w) (imm6Field w)
  | 12 => .ifLtRi6 (rdField w) (imm6Field w)
  | 13 => .ifGeRi6 (rdField w) (imm6Field w)
  | 14 => .ifUltRi6 (rdField w) (imm6Field w)
  | _ => .ifUgeRi6 (rdField w) (imm6Field w)   -- func 15, the last 4-bit value

/-- The ls format: op = 12 + w[3:2] (R88, R95). -/
def decodeLs (w : Word) : Instr :=
  match (lsOpField w).toNat with
  | 0 => .load (rdField w) (rsField w) (imm4Field w)
  | 1 => .store (rdField w) (rsField w) (imm4Field w)
  | 2 => .loadb (rdField w) (rsField w) (imm4Field w)
  | _ => .storeb (rdField w) (rsField w) (imm4Field w)   -- w[3:2] = 11

/-- `fmt = 01`: ri8 (`w[2] = 0`; corrected low bits, R85, log 18), i11 (`w[3:2] = 01`, R89), i12
(`w[3:2] = 11`, R90). -/
def decodeFmt01 (w : Word) : Instr :=
  if w[2] then
    if w[3] then .imm (imm12Field w)
    else if w[4] then .callI11 (imm11Field w)
    else .jumpI11 (imm11Field w)
  else if w[3] then .loadcRi8 (rdField w) (imm8Field w)
  else .moveRi8 (rdField w) (imm8Field w)

/-- The decoder (R95): every word is an instruction of exactly one format or lies in one reserved space,
which it answers by name. -/
def decode (w : Word) : Instr :=
  match (fmtField w).toNat with
  | 0 => decodeRr w
  | 1 => decodeFmt01 w
  | 2 => decodeLs w
  | _ => decodeRi6 w   -- fmt = 11

/-- What the decoder reads from an instruction whose bits the opcode table numbers as `w`; every
instruction is one 16-bit word (R81), and bits from `nbits` up are 0. -/
def decodeTableWord (nbits w : Nat) : Option Instr :=
  if w % 2 ^ nbits < 2 ^ 16 then some (decode (BitVec.ofNat 16 (w % 2 ^ nbits))) else none

/-- The rr word: `rd : rs : - : op : 00`, bit 7 written 0 (R83, R99). -/
def rrWord (op : BitVec 5) (rd rs : RegNum) : Word := rd ++ rs ++ 0b0#1 ++ op ++ 0b00#2
/-- The ri6 word: `rd : imm6 : func : 11` (R84). -/
def ri6Word (func : BitVec 4) (rd : RegNum) (imm6 : BitVec 6) : Word := rd ++ imm6 ++ func ++ 0b11#2
/-- The ri8 word: `rd : imm8 : op : 001` (R85). -/
def ri8Word (op : BitVec 1) (rd : RegNum) (imm8 : BitVec 8) : Word := rd ++ imm8 ++ op ++ 0b001#3
/-- The ls word: `rd : rs : imm4 : op : 10` (R88). -/
def lsWord (op : BitVec 2) (rd rs : RegNum) (imm4 : BitVec 4) : Word := rd ++ rs ++ imm4 ++ op ++ 0b10#2
/-- The i11 word: `imm11 : op : 101` (R89). -/
def i11Word (op : BitVec 2) (imm11 : BitVec 11) : Word := imm11 ++ op ++ 0b101#3
/-- The i12 word: `imm12 : 1101` (R90). -/
def i12Word (imm12 : BitVec 12) : Word := imm12 ++ 0b1101#4

/-- The word of an instruction; "N/A" fields are written 0 (R100), and a reserved word is itself. -/
def encode : Instr → Word
  | .nop => rrWord 0b00000#5 0#4 0#4
  | .rets => rrWord 0b00001#5 0#4 0#4
  | .error => rrWord 0b00010#5 0#4 0#4
  | .halt => rrWord 0b00011#5 0#4 0#4
  | .rcsr rd csr => rrWord 0b00100#5 rd csr
  | .wcsr csr rd => rrWord 0b00101#5 rd csr
  | .moveRr rd rs => rrWord 0b00110#5 rd rs
  | .moveRi8 rd imm8 => ri8Word 0b0#1 rd imm8
  | .loadcRr rd rs => rrWord 0b00111#5 rd rs
  | .loadcRi8 rd imm8 => ri8Word 0b1#1 rd imm8
  | .jumpRr rd => rrWord 0b01000#5 rd 0#4
  | .jumpI11 imm11 => i11Word 0b00#2 imm11
  | .imm imm12 => i12Word imm12
  | .callRr rd => rrWord 0b01010#5 rd 0#4
  | .callI11 imm11 => i11Word 0b10#2 imm11
  | .load rd rs imm4 => lsWord 0b00#2 rd rs imm4
  | .store rd rs imm4 => lsWord 0b01#2 rd rs imm4
  | .loadb rd rs imm4 => lsWord 0b10#2 rd rs imm4
  | .storeb rd rs imm4 => lsWord 0b11#2 rd rs imm4
  | .addRr rd rs => rrWord 0b10000#5 rd rs
  | .addRi6 rd imm6 => ri6Word 0b0000#4 rd imm6
  | .subRr rd rs => rrWord 0b10001#5 rd rs
  | .subRi6 rd imm6 => ri6Word 0b0001#4 rd imm6
  | .addcRr rd rs => rrWord 0b10010#5 rd rs
  | .addcRi6 rd imm6 => ri6Word 0b0010#4 rd imm6
  | .subcRr rd rs => rrWord 0b10011#5 rd rs
  | .subcRi6 rd imm6 => ri6Word 0b0011#4 rd imm6
  | .xorRr rd rs => rrWord 0b10100#5 rd rs
  | .xorRi6 rd imm6 => ri6Word 0b0100#4 rd imm6
  | .andRr rd rs => rrWord 0b10101#5 rd rs
  | .andRi6 rd imm6 => ri6Word 0b0101#4 rd imm6
  | .orRr rd rs => rrWord 0b10110#5 rd rs
  | .orRi6 rd imm6 => ri6Word 0b0110#4 rd imm6
  | .shlRr rd rs => rrWord 0b10111#5 rd rs
  | .shlRi6 rd imm6 => ri6Word 0b0111#4 rd imm6
  | .shrRr rd rs => rrWord 0b11000#5 rd rs
  | .shrRi6 rd imm6 => ri6Word 0b1000#4 rd imm6
  | .asrRr rd rs => rrWord 0b11001#5 rd rs
  | .asrRi6 rd imm6 => ri6Word 0b1001#4 rd imm6
  | .ifEqRr rd rs => rrWord 0b11010#5 rd rs
  | .ifEqRi6 rd imm6 => ri6Word 0b1010#4 rd imm6
  | .ifNeRr rd rs => rrWord 0b11011#5 rd rs
  | .ifNeRi6 rd imm6 => ri6Word 0b1011#4 rd imm6
  | .ifLtRr rd rs => rrWord 0b11100#5 rd rs
  | .ifLtRi6 rd imm6 => ri6Word 0b1100#4 rd imm6
  | .ifGeRr rd rs => rrWord 0b11101#5 rd rs
  | .ifGeRi6 rd imm6 => ri6Word 0b1101#4 rd imm6
  | .ifUltRr rd rs => rrWord 0b11110#5 rd rs
  | .ifUltRi6 rd imm6 => ri6Word 0b1110#4 rd imm6
  | .ifUgeRr rd rs => rrWord 0b11111#5 rd rs
  | .ifUgeRi6 rd imm6 => ri6Word 0b1111#4 rd imm6
  | .reservedOp9or11 w => w
  | .reservedOp12to15 w => w
  | .reservedBit7 w => w

/-- The mask and the match of an instruction's row of the opcode table: a word is that instruction iff
`w & mask = match` (R106, R97 to R99). -/
def Instr.row : Instr → Word × Word
  | .nop => (0x00FF#16, 0x0000#16)
  | .rets => (0x00FF#16, 0x0004#16)
  | .error => (0x00FF#16, 0x0008#16)
  | .halt => (0x00FF#16, 0x000C#16)
  | .rcsr _ _ => (0x00FF#16, 0x0010#16)
  | .wcsr _ _ => (0x00FF#16, 0x0014#16)
  | .moveRr _ _ => (0x00FF#16, 0x0018#16)
  | .moveRi8 _ _ => (0x000F#16, 0x0001#16)
  | .loadcRr _ _ => (0x00FF#16, 0x001C#16)
  | .loadcRi8 _ _ => (0x000F#16, 0x0009#16)
  | .jumpRr _ => (0x00FF#16, 0x0020#16)
  | .jumpI11 _ => (0x001F#16, 0x0005#16)
  | .imm _ => (0x000F#16, 0x000D#16)
  | .callRr _ => (0x00FF#16, 0x0028#16)
  | .callI11 _ => (0x001F#16, 0x0015#16)
  | .load _ _ _ => (0x000F#16, 0x0002#16)
  | .store _ _ _ => (0x000F#16, 0x0006#16)
  | .loadb _ _ _ => (0x000F#16, 0x000A#16)
  | .storeb _ _ _ => (0x000F#16, 0x000E#16)
  | .addRr _ _ => (0x00FF#16, 0x0040#16)
  | .addRi6 _ _ => (0x003F#16, 0x0003#16)
  | .subRr _ _ => (0x00FF#16, 0x0044#16)
  | .subRi6 _ _ => (0x003F#16, 0x0007#16)
  | .addcRr _ _ => (0x00FF#16, 0x0048#16)
  | .addcRi6 _ _ => (0x003F#16, 0x000B#16)
  | .subcRr _ _ => (0x00FF#16, 0x004C#16)
  | .subcRi6 _ _ => (0x003F#16, 0x000F#16)
  | .xorRr _ _ => (0x00FF#16, 0x0050#16)
  | .xorRi6 _ _ => (0x003F#16, 0x0013#16)
  | .andRr _ _ => (0x00FF#16, 0x0054#16)
  | .andRi6 _ _ => (0x003F#16, 0x0017#16)
  | .orRr _ _ => (0x00FF#16, 0x0058#16)
  | .orRi6 _ _ => (0x003F#16, 0x001B#16)
  | .shlRr _ _ => (0x00FF#16, 0x005C#16)
  | .shlRi6 _ _ => (0x003F#16, 0x001F#16)
  | .shrRr _ _ => (0x00FF#16, 0x0060#16)
  | .shrRi6 _ _ => (0x003F#16, 0x0023#16)
  | .asrRr _ _ => (0x00FF#16, 0x0064#16)
  | .asrRi6 _ _ => (0x003F#16, 0x0027#16)
  | .ifEqRr _ _ => (0x00FF#16, 0x0068#16)
  | .ifEqRi6 _ _ => (0x003F#16, 0x002B#16)
  | .ifNeRr _ _ => (0x00FF#16, 0x006C#16)
  | .ifNeRi6 _ _ => (0x003F#16, 0x002F#16)
  | .ifLtRr _ _ => (0x00FF#16, 0x0070#16)
  | .ifLtRi6 _ _ => (0x003F#16, 0x0033#16)
  | .ifGeRr _ _ => (0x00FF#16, 0x0074#16)
  | .ifGeRi6 _ _ => (0x003F#16, 0x0037#16)
  | .ifUltRr _ _ => (0x00FF#16, 0x0078#16)
  | .ifUltRi6 _ _ => (0x003F#16, 0x003B#16)
  | .ifUgeRr _ _ => (0x00FF#16, 0x007C#16)
  | .ifUgeRi6 _ _ => (0x003F#16, 0x003F#16)
  | .reservedOp9or11 _ => (0x00F7#16, 0x0024#16)
  | .reservedOp12to15 _ => (0x00F3#16, 0x0030#16)
  | .reservedBit7 _ => (0x0083#16, 0x0080#16)

/-- The bits of the word that the decoder reads; the others are the "N/A" fields (R100). -/
def Instr.readBits : Instr → Word
  | .nop => 0x00FF#16
  | .rets => 0x00FF#16
  | .error => 0x00FF#16
  | .halt => 0x00FF#16
  | .rcsr _ _ => 0xFFFF#16
  | .wcsr _ _ => 0xFFFF#16
  | .moveRr _ _ => 0xFFFF#16
  | .moveRi8 _ _ => 0xFFFF#16
  | .loadcRr _ _ => 0xFFFF#16
  | .loadcRi8 _ _ => 0xFFFF#16
  | .jumpRr _ => 0xF0FF#16
  | .jumpI11 _ => 0xFFFF#16
  | .imm _ => 0xFFFF#16
  | .callRr _ => 0xF0FF#16
  | .callI11 _ => 0xFFFF#16
  | .load _ _ _ => 0xFFFF#16
  | .store _ _ _ => 0xFFFF#16
  | .loadb _ _ _ => 0xFFFF#16
  | .storeb _ _ _ => 0xFFFF#16
  | .addRr _ _ => 0xFFFF#16
  | .addRi6 _ _ => 0xFFFF#16
  | .subRr _ _ => 0xFFFF#16
  | .subRi6 _ _ => 0xFFFF#16
  | .addcRr _ _ => 0xFFFF#16
  | .addcRi6 _ _ => 0xFFFF#16
  | .subcRr _ _ => 0xFFFF#16
  | .subcRi6 _ _ => 0xFFFF#16
  | .xorRr _ _ => 0xFFFF#16
  | .xorRi6 _ _ => 0xFFFF#16
  | .andRr _ _ => 0xFFFF#16
  | .andRi6 _ _ => 0xFFFF#16
  | .orRr _ _ => 0xFFFF#16
  | .orRi6 _ _ => 0xFFFF#16
  | .shlRr _ _ => 0xFFFF#16
  | .shlRi6 _ _ => 0xFFFF#16
  | .shrRr _ _ => 0xFFFF#16
  | .shrRi6 _ _ => 0xFFFF#16
  | .asrRr _ _ => 0xFFFF#16
  | .asrRi6 _ _ => 0xFFFF#16
  | .ifEqRr _ _ => 0xFFFF#16
  | .ifEqRi6 _ _ => 0xFFFF#16
  | .ifNeRr _ _ => 0xFFFF#16
  | .ifNeRi6 _ _ => 0xFFFF#16
  | .ifLtRr _ _ => 0xFFFF#16
  | .ifLtRi6 _ _ => 0xFFFF#16
  | .ifGeRr _ _ => 0xFFFF#16
  | .ifGeRi6 _ _ => 0xFFFF#16
  | .ifUltRr _ _ => 0xFFFF#16
  | .ifUltRi6 _ _ => 0xFFFF#16
  | .ifUgeRr _ _ => 0xFFFF#16
  | .ifUgeRi6 _ _ => 0xFFFF#16
  | .reservedOp9or11 _ => 0xFFFF#16
  | .reservedOp12to15 _ => 0xFFFF#16
  | .reservedBit7 _ => 0xFFFF#16

/-- The format of an instruction (R81, R96); the three reserved spaces are rr words. -/
def Instr.format : Instr → Format
  | .nop => .rr
  | .rets => .rr
  | .error => .rr
  | .halt => .rr
  | .rcsr _ _ => .rr
  | .wcsr _ _ => .rr
  | .moveRr _ _ => .rr
  | .moveRi8 _ _ => .ri8
  | .loadcRr _ _ => .rr
  | .loadcRi8 _ _ => .ri8
  | .jumpRr _ => .rr
  | .jumpI11 _ => .i11
  | .imm _ => .i12
  | .callRr _ => .rr
  | .callI11 _ => .i11
  | .load _ _ _ => .ls
  | .store _ _ _ => .ls
  | .loadb _ _ _ => .ls
  | .storeb _ _ _ => .ls
  | .addRr _ _ => .rr
  | .addRi6 _ _ => .ri6
  | .subRr _ _ => .rr
  | .subRi6 _ _ => .ri6
  | .addcRr _ _ => .rr
  | .addcRi6 _ _ => .ri6
  | .subcRr _ _ => .rr
  | .subcRi6 _ _ => .ri6
  | .xorRr _ _ => .rr
  | .xorRi6 _ _ => .ri6
  | .andRr _ _ => .rr
  | .andRi6 _ _ => .ri6
  | .orRr _ _ => .rr
  | .orRi6 _ _ => .ri6
  | .shlRr _ _ => .rr
  | .shlRi6 _ _ => .ri6
  | .shrRr _ _ => .rr
  | .shrRi6 _ _ => .ri6
  | .asrRr _ _ => .rr
  | .asrRi6 _ _ => .ri6
  | .ifEqRr _ _ => .rr
  | .ifEqRi6 _ _ => .ri6
  | .ifNeRr _ _ => .rr
  | .ifNeRi6 _ _ => .ri6
  | .ifLtRr _ _ => .rr
  | .ifLtRi6 _ _ => .ri6
  | .ifGeRr _ _ => .rr
  | .ifGeRi6 _ _ => .ri6
  | .ifUltRr _ _ => .rr
  | .ifUltRi6 _ _ => .ri6
  | .ifUgeRr _ _ => .rr
  | .ifUgeRi6 _ _ => .ri6
  | .reservedOp9or11 _ => .rr
  | .reservedOp12to15 _ => .rr
  | .reservedBit7 _ => .rr

/-- The prefix instructions are exactly `imm`, `addc` and `subc` (R124). -/
def Instr.isPrefix : Instr → Bool
  | .nop => false
  | .rets => false
  | .error => false
  | .halt => false
  | .rcsr _ _ => false
  | .wcsr _ _ => false
  | .moveRr _ _ => false
  | .moveRi8 _ _ => false
  | .loadcRr _ _ => false
  | .loadcRi8 _ _ => false
  | .jumpRr _ => false
  | .jumpI11 _ => false
  | .imm _ => true
  | .callRr _ => false
  | .callI11 _ => false
  | .load _ _ _ => false
  | .store _ _ _ => false
  | .loadb _ _ _ => false
  | .storeb _ _ _ => false
  | .addRr _ _ => false
  | .addRi6 _ _ => false
  | .subRr _ _ => false
  | .subRi6 _ _ => false
  | .addcRr _ _ => true
  | .addcRi6 _ _ => true
  | .subcRr _ _ => true
  | .subcRi6 _ _ => true
  | .xorRr _ _ => false
  | .xorRi6 _ _ => false
  | .andRr _ _ => false
  | .andRi6 _ _ => false
  | .orRr _ _ => false
  | .orRi6 _ _ => false
  | .shlRr _ _ => false
  | .shlRi6 _ _ => false
  | .shrRr _ _ => false
  | .shrRi6 _ _ => false
  | .asrRr _ _ => false
  | .asrRi6 _ _ => false
  | .ifEqRr _ _ => false
  | .ifEqRi6 _ _ => false
  | .ifNeRr _ _ => false
  | .ifNeRi6 _ _ => false
  | .ifLtRr _ _ => false
  | .ifLtRi6 _ _ => false
  | .ifGeRr _ _ => false
  | .ifGeRi6 _ _ => false
  | .ifUltRr _ _ => false
  | .ifUltRi6 _ _ => false
  | .ifUgeRr _ _ => false
  | .ifUgeRi6 _ _ => false
  | .reservedOp9or11 _ => false
  | .reservedOp12to15 _ => false
  | .reservedBit7 _ => false

/-- `op` is one of 16, 17, 18, 19: `add`, `sub`, `addc`, `subc` (R122). -/
def Instr.usesCarry : Instr → Bool
  | .nop => false
  | .rets => false
  | .error => false
  | .halt => false
  | .rcsr _ _ => false
  | .wcsr _ _ => false
  | .moveRr _ _ => false
  | .moveRi8 _ _ => false
  | .loadcRr _ _ => false
  | .loadcRi8 _ _ => false
  | .jumpRr _ => false
  | .jumpI11 _ => false
  | .imm _ => false
  | .callRr _ => false
  | .callI11 _ => false
  | .load _ _ _ => false
  | .store _ _ _ => false
  | .loadb _ _ _ => false
  | .storeb _ _ _ => false
  | .addRr _ _ => true
  | .addRi6 _ _ => true
  | .subRr _ _ => true
  | .subRi6 _ _ => true
  | .addcRr _ _ => true
  | .addcRi6 _ _ => true
  | .subcRr _ _ => true
  | .subcRi6 _ _ => true
  | .xorRr _ _ => false
  | .xorRi6 _ _ => false
  | .andRr _ _ => false
  | .andRi6 _ _ => false
  | .orRr _ _ => false
  | .orRi6 _ _ => false
  | .shlRr _ _ => false
  | .shlRi6 _ _ => false
  | .shrRr _ _ => false
  | .shrRi6 _ _ => false
  | .asrRr _ _ => false
  | .asrRi6 _ _ => false
  | .ifEqRr _ _ => false
  | .ifEqRi6 _ _ => false
  | .ifNeRr _ _ => false
  | .ifNeRi6 _ _ => false
  | .ifLtRr _ _ => false
  | .ifLtRi6 _ _ => false
  | .ifGeRr _ _ => false
  | .ifGeRi6 _ _ => false
  | .ifUltRr _ _ => false
  | .ifUltRi6 _ _ => false
  | .ifUgeRr _ _ => false
  | .ifUgeRi6 _ _ => false
  | .reservedOp9or11 _ => false
  | .reservedOp12to15 _ => false
  | .reservedBit7 _ => false

/-- The word lies in a reserved space (R97, R98, R99). -/
def Instr.isReserved : Instr → Bool
  | .nop => false
  | .rets => false
  | .error => false
  | .halt => false
  | .rcsr _ _ => false
  | .wcsr _ _ => false
  | .moveRr _ _ => false
  | .moveRi8 _ _ => false
  | .loadcRr _ _ => false
  | .loadcRi8 _ _ => false
  | .jumpRr _ => false
  | .jumpI11 _ => false
  | .imm _ => false
  | .callRr _ => false
  | .callI11 _ => false
  | .load _ _ _ => false
  | .store _ _ _ => false
  | .loadb _ _ _ => false
  | .storeb _ _ _ => false
  | .addRr _ _ => false
  | .addRi6 _ _ => false
  | .subRr _ _ => false
  | .subRi6 _ _ => false
  | .addcRr _ _ => false
  | .addcRi6 _ _ => false
  | .subcRr _ _ => false
  | .subcRi6 _ _ => false
  | .xorRr _ _ => false
  | .xorRi6 _ _ => false
  | .andRr _ _ => false
  | .andRi6 _ _ => false
  | .orRr _ _ => false
  | .orRi6 _ _ => false
  | .shlRr _ _ => false
  | .shlRi6 _ _ => false
  | .shrRr _ _ => false
  | .shrRi6 _ _ => false
  | .asrRr _ _ => false
  | .asrRi6 _ _ => false
  | .ifEqRr _ _ => false
  | .ifEqRi6 _ _ => false
  | .ifNeRr _ _ => false
  | .ifNeRi6 _ _ => false
  | .ifLtRr _ _ => false
  | .ifLtRi6 _ _ => false
  | .ifGeRr _ _ => false
  | .ifGeRi6 _ _ => false
  | .ifUltRr _ _ => false
  | .ifUltRi6 _ _ => false
  | .ifUgeRr _ _ => false
  | .ifUgeRi6 _ _ => false
  | .reservedOp9or11 _ => true
  | .reservedOp12to15 _ => true
  | .reservedBit7 _ => true

end Sys2Proof
end

