-- ==== Sys2Proof/Config.lean ====
section
/-! DEFINITION. What the spec leaves OPEN (00_scope.md R7, 10_state.md R38), each an opaque constant:
nothing in Lean can evaluate one or prove a value of it, so a claim made through the model holds for
every value of the parameter. -/

namespace Sys2Proof

/-- The two candidates for `BYTE_ORDER` (20_memory.md R50). -/
inductive ByteOrder where
  /-- The even byte holds bits 7:0 of the word. -/
  | little
  /-- The even byte holds bits 15:8 of the word. -/
  | big
deriving DecidableEq, Repr, Inhabited

/-- The three shifts, the `op` argument of `ShiftOOB` (45_logic_shift.md R197). -/
inductive ShiftOp where
  | shl
  | shr
  | asr
deriving DecidableEq, Repr, Inhabited

/-- `BYTE_ORDER`, OPEN (R50, D6). FREE VALUE, log 7: safe. -/
opaque Config.byteOrder : ByteOrder

/-- `ConstMem`, what `loadc` reads: a 16-bit address to a 16-bit word, OPEN (41_move.md R144, D17).
FREE VALUE, log 8. -/
opaque Config.constMem : Word → Word

/-- `ShiftOOB(op, a, n)`, the result of a shift by `n ≥ 16`, OPEN; it depends on its arguments and on
nothing else (R197, D13). FREE VALUE, log 9: safe. -/
opaque Config.shiftOOB : ShiftOp → Word → Word → Word

/-- `CsrRead`: the word that CSR `n` reads as when the CSR file is in the state with this code
(10_state.md R32, D15). FREE VALUE, log 10. -/
opaque Config.csrRead : Nat → CsrNum → Word

/-- The code of the CSR file after a read of CSR `n`: the spec forbids assuming that a read is free of
side effects (R32). FREE VALUE, log 10. -/
opaque Config.csrReadNext : Nat → CsrNum → Nat

/-- `CsrWrite`: the code of the CSR file after the word is written to CSR `n` (R32, D15).
FREE VALUE, log 10. -/
opaque Config.csrWrite : Nat → CsrNum → Word → Nat

/-- The code of the CSR file after a reset event, from its code before (R39 "unspecified").
FREE VALUE, log 31. -/
opaque Config.csrAtReset : Nat → Nat

/-- The reset vector, instruction address 0x0000 (70_reset_and_hazards.md R261; the spec's decision
D19, log 3: UNVERIFIED, unsafe). -/
def Config.resetPc : Word := 0x0000#16

end Sys2Proof
end

