-- ==== Sys2Proof/Machine/State.lean ====
section
/-! DEFINITION. The state of the core (10_state.md), as plain data, and its value after reset. -/

namespace Sys2Proof.Machine

/-- Data by address: (address, value) pairs, addresses strictly rising (`Sparse.wf` in Ops.lean). An
address that is not listed holds no value, so no listed entry can equal what an unlisted one reads as. -/
abbrev Sparse (α : Type) := List (Nat × α)

/-- Data memory `DMem`: bytes by 16-bit byte address (R34). A byte that is not listed holds no value
(R39, U16; log 6). -/
abbrev Memory : Type := List Host.Cell

/-- Instruction memory `IMem`: 16-bit words by 16-bit instruction address (R35). An address that is not
listed lies outside the program text (U17; log 5). -/
abbrev Program := Sparse Word

/-- The state of the machine, one field for each piece of state of 10_state.md. -/
structure State where
  /-- `x[0]` to `x[15]`, the general registers (R20). -/
  regs : Vector Word 16
  /-- `pc`, the address of the instruction being executed (R23). -/
  pc : Word
  /-- `C`, the carry flag (R26). -/
  c : Bool
  /-- `UC`, the "use carry" flag (R27). -/
  uc : Bool
  /-- `IMMV`, the valid flag of the imm register (R28). -/
  immv : Bool
  /-- `IMM12`, the imm register (R28). -/
  imm12 : BitVec 12
  /-- `SKIP`, the skip flag (R29). -/
  skip : Bool
  /-- `HALT`, the halt line (R30). -/
  halt : Bool
  /-- `ERROR`, the error line (R31). -/
  error : Bool
  /-- `DMem`, data memory (R34). -/
  dmem : Memory
  /-- `IMem`, the program text (R35). -/
  imem : Program
  /-- The CSR file (R32), as an abstract code that only the uninterpreted functions of Config look at: the
  model's own field, the carrier of free values (log 10). -/
  csrFile : Nat
deriving DecidableEq, Repr

/-- Why a step has no next state although the instruction is defined (93_implementation_defined.md, the
treatment `fault`). -/
inductive Fault where
  /-- Fetch found no word of the program text at the pc (U17). Raised by `step`. Safe (log 5). -/
  | noInstruction
  /-- `load` or `loadb` read a data byte that holds no value (U16). Safe (log 6). -/
  | noByte
deriving DecidableEq, Repr

/-- The spec's `refuse(reason)`: it gives the situation no meaning (00_scope.md R11). -/
inductive Refusal where
  /-- An instruction without a meaning in `exec` yet. Raised by `exec` alone; safe. -/
  | notModelled (mnemonic : String)
  /-- "reserved encoding": an rr word with op 9, 11 or 12 to 15 (R97, R98). Raised by the meanings of the two
  constructors, also while skipping (R121). Safe (log 13). -/
  | reservedEncoding
  /-- "reserved bit 7": an rr word with bit 7 set (R99). As above. Safe (log 13). -/
  | reservedBit7
  /-- "imm after imm" (R122). Raised by `admission`. Safe (log 15). -/
  | immAfterImm
  /-- "imm before an instruction with no immediate" (R122). Raised by `admission`. Safe (log 15). -/
  | immBeforeRr
  /-- "imm between addc/subc and its successor" (R122). Raised by `admission`. Safe (log 15). -/
  | immAfterCarry
  /-- "addc/subc before an instruction that is not add, sub, addc, subc" (R122). Raised by `admission`. Safe
  (log 15). -/
  | carryBeforeOther
  /-- "rets: no semantics in source" (R126). Raised by `rets`. Safe (log 12). -/
  | retsNoSemantics
deriving DecidableEq, Repr

/-- What a step or a meaning answers. -/
abbrev Result := Host.Outcome State Fault Refusal

/-- The machine right after reset (R39, R260, R261). The registers (log 1), `IMM12` (log 2) and the code
of the CSR file (log 36) are DESIGN CHOICEs, unsafe: the spec gives them no value. No program is placed
(log 4). -/
def State.reset : State where
  regs := Vector.replicate 16 0#16
  pc := Config.resetPc
  c := false
  uc := false
  immv := false
  imm12 := 0#12
  skip := false
  halt := false
  error := false
  dmem := []
  imem := []
  csrFile := 0

end Sys2Proof.Machine
end

