-- ==== Sys2Proof/Machine/Ops.lean ====
section
/-! DEFINITION. The named operations over registers, the two memories, the pc and the prefix state, which
every meaning is built from; admission by the pending prefix state (R122); the skip of one instruction
(R121); the reset event (R260) and the rule on when an interrupt may be taken (R236).

The spec has no exception and no exception entry (60_exceptions.md R230, log 27): there is nothing here
that takes one. -/

namespace Sys2Proof.Machine

/-! ## Data by address -/

/-- The value at an address, or none where the address holds no value. -/
def Sparse.read {α : Type} : Sparse α → Nat → Option α
  | [], _ => none
  | (k, v) :: rest, a => if a = k then some v else Sparse.read rest a

/-- Put a value at an address, keeping the addresses strictly rising. -/
def Sparse.write {α : Type} : Sparse α → Nat → α → Sparse α
  | [], a, v => [(a, v)]
  | (k, w) :: rest, a, v =>
    if a < k then (a, v) :: (k, w) :: rest
    else if a = k then (a, v) :: rest
    else (k, w) :: Sparse.write rest a v

/-- Addresses strictly rise from `lo` on and lie below 2^16 (R34, R35). -/
def Sparse.wfFrom {α : Type} (lo : Nat) : Sparse α → Bool
  | [] => true
  | (k, _) :: rest => decide (lo ≤ k) && decide (k < 2 ^ 16) && Sparse.wfFrom (k + 1) rest

/-- The canonical form: equal contents are equal lists. -/
def Sparse.wf {α : Type} (m : Sparse α) : Bool := Sparse.wfFrom 0 m

/-- The canonical form of data memory. -/
def Memory.wf (m : Memory) : Bool := Sparse.wf m

/-! ## Data memory (20_memory.md section 3) -/

/-- `MemRead(a, 1)` (R55). -/
def State.readByte (s : State) (a : Word) : Option Byte := Sparse.read s.dmem a.toNat

/-- The word made of the byte at the even address and the byte after it (R50). -/
def joinBytes (o : ByteOrder) (even odd : Byte) : Word :=
  match o with
  | .little => odd ++ even
  | .big => even ++ odd

/-- The byte of a word that stands at the even address (R50). -/
def evenByte (o : ByteOrder) (v : Word) : Byte :=
  match o with
  | .little => v.extractLsb' 0 8
  | .big => v.extractLsb' 8 8

/-- The byte of a word that stands at the odd address (R50). -/
def oddByte (o : ByteOrder) (v : Word) : Byte :=
  match o with
  | .little => v.extractLsb' 8 8
  | .big => v.extractLsb' 0 8

/-- `MemRead(a, 2)`, for even `a` (R55). -/
def State.readWord (s : State) (a : Word) : Option Word :=
  match s.readByte a, s.readByte (a + 1#16) with
  | some b0, some b1 => some (joinBytes Config.byteOrder b0 b1)
  | _, _ => none

/-- `MemWrite(a, 1, b)` (R56). -/
def State.writeByte (s : State) (a : Word) (b : Byte) : State :=
  { s with dmem := Sparse.write s.dmem a.toNat b }

/-- `MemWrite(a, 2, v)`, for even `a` (R56). -/
def State.writeWord (s : State) (a : Word) (v : Word) : State :=
  (s.writeByte a (evenByte Config.byteOrder v)).writeByte (a + 1#16) (oddByte Config.byteOrder v)

/-! ## Instruction memory -/

/-- `IMem(a)`, or none outside the program text (R35, U17). -/
def State.instrAt (s : State) (a : Word) : Option Word := Sparse.read s.imem a.toNat

/-- The program text with the word `w` at `a`: the load of a program from outside, no instruction's effect
(R35, log 4). -/
def State.placeInstr (s : State) (a : Word) (w : Word) : State :=
  { s with imem := Sparse.write s.imem a.toNat w }

/-! ## Registers, pc, flags -/

/-- `x[r]` (R10, R20). -/
def State.reg (s : State) (r : RegNum) : Word := s.regs[r.toNat]'r.isLt

/-- `x[r] <- v` (R10, R20): no register is hard-wired. -/
def State.setReg (s : State) (r : RegNum) (v : Word) : State :=
  { s with regs := s.regs.set r.toNat v r.isLt }

/-- `pcn`, the address of the next sequential instruction (R10, R24). -/
def State.pcn (s : State) : Word := s.pc + 1#16

/-- `pc <- t` (R10). -/
def State.jumpTo (s : State) (t : Word) : State := { s with pc := t }

/-- `pc <- pcn` (R24). -/
def State.advance (s : State) : State := s.jumpTo s.pcn

/-- `end_prefix_state`: `IMMV <- 0; UC <- 0; C <- 0` (R10, R123). -/
def State.endPrefixState (s : State) : State := { s with immv := false, uc := false, c := false }

/-- The prefix state after `addc` or `subc` with this carry or borrow out (R123). -/
def State.setCarry (s : State) (carry : Bool) : State := { s with immv := false, uc := true, c := carry }

/-- `IMM12 <- v; IMMV <- 1` (R131). -/
def State.setImm (s : State) (v : BitVec 12) : State := { s with imm12 := v, immv := true }

/-- `SKIP <- b` (R29). -/
def State.setSkip (s : State) (b : Bool) : State := { s with skip := b }

/-- `HALT <- 1` (R128). -/
def State.assertHalt (s : State) : State := { s with halt := true }

/-- `ERROR <- 1` (R127). -/
def State.assertError (s : State) : State := { s with error := true }

/-- The CSR file takes the state with this code (R32, log 10). -/
def State.setCsrFile (s : State) (code : Nat) : State := { s with csrFile := code }

/-! ## The step's parts (40_system.md section 1) -/

/-- The end of every regular instruction that does not set the pc: `pc <- pcn; end_prefix_state` (R123,
R24). -/
def retire (s : State) : Result := .next s.endPrefixState.advance

/-- The spec's `admit(d)`, R122: the reason why instruction `i` may not follow the pending prefix state, if there is
one. The order of the tests is the spec's. Safe (log 15). -/
def admission (i : Instr) (s : State) : Option Refusal :=
  if s.immv && i.format == .i12 then some .immAfterImm
  else if s.immv && i.format == .rr then some .immBeforeRr
  else if s.uc && i.format == .i12 then some .immAfterCarry
  else if s.uc && !i.usesCarry then some .carryBeforeOther
  else none

/-- Execute an instruction if the pending prefix state admits it (R121). -/
def admitted (i : Instr) (s : State) (effect : Result) : Result :=
  match admission i s with
  | some r => .refused r
  | none => effect

/-- Skip instruction `i` (R121): `pc <- pcn`, and `SKIP` stays 1 exactly behind a prefix instruction. -/
def skipOver (i : Instr) (s : State) : State := (s.setSkip i.isPrefix).advance

/-- `HALT = 1` or `ERROR = 1`: the core spins (R121, R132). -/
def State.stopped (s : State) : Bool := s.halt || s.error

/-- An interrupt may be taken only while `IMMV = 0`, `UC = 0` and `SKIP = 0` (R236), the one constraint the
spec puts on interrupts; a stopped core takes none (R248). The model itself has no interrupt move (R237,
log 17). -/
def interruptAdmitted (s : State) : Bool := !s.immv && !s.uc && !s.skip && !s.stopped

/-- The reset event, an input from outside that can come at any time and is no step (R260, log 31): the
state takes the values of R39, the program text stays, and the CSR file goes to an unknown state. -/
def resetEvent (s : State) : State :=
  { State.reset with imem := s.imem, csrFile := Config.csrAtReset s.csrFile }

end Sys2Proof.Machine
end

