-- ==== Sys2Proof/Machine/Operands.lean ====
section
/-! DEFINITION. The operand forms: native and effective immediates (30_encoding.md R91, R92), the addresses
of loads and stores (43_load_store.md R160), relative targets (42_branches.md R152). -/

namespace Sys2Proof.Machine

/-- `imm_eff` (R91): after an `imm` prefix `IMM12 : low4`, else the native immediate. `low4` is the low four
bits of the instruction's own field (log 22). -/
def effImm (s : State) (low4 : BitVec 4) (native : Word) : Word :=
  if s.immv then s.imm12 ++ low4 else native

/-- The ri6 immediate: `low4 = w[9:6]`, native signed (R91, R92). -/
def immRi6 (s : State) (imm6 : BitVec 6) : Word := effImm s (imm6.extractLsb' 0 4) (imm6.signExtend 16)

/-- The ri8 immediate: `low4 = w[7:4]`, native signed (R91, R92). -/
def immRi8 (s : State) (imm8 : BitVec 8) : Word := effImm s (imm8.extractLsb' 0 4) (imm8.signExtend 16)

/-- The ls immediate: `low4 = w[7:4]`, native unsigned (R91, R92). -/
def immLs (s : State) (imm4 : BitVec 4) : Word := effImm s imm4 (imm4.zeroExtend 16)

/-- The i11 immediate: `low4 = w[8:5]`, native signed (R91, R92). -/
def immI11 (s : State) (imm11 : BitVec 11) : Word := effImm s (imm11.extractLsb' 0 4) (imm11.signExtend 16)

/-- `ea_word = ((x[rs] & 0xFFFE) + 2 * off) mod 2^16` (R160; doubled under a prefix too, log 23). -/
def wordAddr (s : State) (rs : RegNum) (imm4 : BitVec 4) : Word :=
  (s.reg rs &&& 0xFFFE#16) + 2#16 * immLs s imm4

/-- `ea_byte = (x[rs] + off) mod 2^16` (R160). -/
def byteAddr (s : State) (rs : RegNum) (imm4 : BitVec 4) : Word := s.reg rs + immLs s imm4

/-- The relative target `(pcn + imm_eff) mod 2^16` (R152, logs 20 and 24). -/
def relTarget (s : State) (imm11 : BitVec 11) : Word := s.pcn + immI11 s imm11

end Sys2Proof.Machine
end

