-- ==== Sys2Proof/Machine/Flags.lean ====
section
/-! DEFINITION. The arithmetic of rj32 and everything it computes of flags: carry in (44_arithmetic.md
R171), carry and borrow out (R180), the logic and shift results (45_logic_shift.md), and the conditions of
the `if.cc` (46_skip.md R210). -/

namespace Sys2Proof.Machine

/-- `cin`: `C` if `UC = 1`, else 0 (R171). -/
def State.cin (s : State) : Nat := if s.uc && s.c then 1 else 0

/-- `t = unsigned(a) + unsigned(b) + cin`, exact (R180). -/
def exactSum (a b : Word) (cin : Nat) : Nat := a.toNat + b.toNat + cin

/-- `t = unsigned(a) - unsigned(b) - cin`, exact (R180). -/
def exactDiff (a b : Word) (cin : Nat) : Int := (a.toNat : Int) - (b.toNat : Int) - (cin : Int)

/-- The carry out, bit 16 of the sum (R180). -/
def carryOut (t : Nat) : Bool := decide (65536 ≤ t)

/-- The borrow out: 1 iff the difference is negative (R180, log 25). -/
def borrowOut (t : Int) : Bool := decide (t < 0)

/-- The effect of `add` (R172, R173). -/
def addWord (s : State) (rd : RegNum) (b : Word) : Result :=
  retire (s.setReg rd (BitVec.ofNat 16 (exactSum (s.reg rd) b s.cin)))

/-- The effect of `sub` (R174, R175). -/
def subWord (s : State) (rd : RegNum) (b : Word) : Result :=
  retire (s.setReg rd (BitVec.ofInt 16 (exactDiff (s.reg rd) b s.cin)))

/-- The effect of `addc` (R176, R177). -/
def addCarryWord (s : State) (rd : RegNum) (b : Word) : Result :=
  let t := exactSum (s.reg rd) b s.cin
  .next ((s.setReg rd (BitVec.ofNat 16 t)).setCarry (carryOut t)).advance

/-- The effect of `subc` (R178, R179). -/
def subBorrowWord (s : State) (rd : RegNum) (b : Word) : Result :=
  let t := exactDiff (s.reg rd) b s.cin
  .next ((s.setReg rd (BitVec.ofInt 16 t)).setCarry (borrowOut t)).advance

/-- `x[rd] <- v; pc <- pcn; end_prefix_state`, the end of every regular instruction with a result. -/
def writeBack (s : State) (rd : RegNum) (v : Word) : Result := retire (s.setReg rd v)

/-- `shl`: zeros enter at bit 0; an amount of 16 or more gives the free value (R197, R198, log 9). -/
def shiftLeft (a n : Word) : Word :=
  if n.toNat ≤ 15 then a <<< n.toNat else Config.shiftOOB .shl a n

/-- `shr`: zeros enter at bit 15 (R197, R200, log 9). -/
def shiftRight (a n : Word) : Word :=
  if n.toNat ≤ 15 then a >>> n.toNat else Config.shiftOOB .shr a n

/-- `asr`: copies of bit 15 enter at bit 15 (R197, R202, log 9). -/
def shiftArith (a n : Word) : Word :=
  if n.toNat ≤ 15 then a.sshiftRight n.toNat else Config.shiftOOB .asr a n

/-- `if.lt`: `signed(a) < signed(b)`, an exact comparison (R210, R216). -/
def signedLess (a b : Word) : Bool := decide (a.toInt < b.toInt)

/-- `if.ult`: `unsigned(a) < unsigned(b)` (R210, R220). -/
def unsignedLess (a b : Word) : Bool := decide (a.toNat < b.toNat)

/-- What an `if.cc` does with its condition: `SKIP <- 1` if it is false, then `pc <- pcn;
end_prefix_state` (R211). -/
def skipUnless (s : State) (cond : Bool) : Result := retire (if cond then s else s.setSkip true)

end Sys2Proof.Machine
end

