-- ==== Sys2Proof/Machine/Arithmetic.lean ====
section
/-! DEFINITION. The arithmetic instructions (44_arithmetic.md). -/

namespace Sys2Proof.Machine

/-- `add rd, rs` (R172). -/
def execAddRr (rd rs : RegNum) (s : State) : Result :=
  admitted (.addRr rd rs) s (addWord s rd (s.reg rs))

/-- `add rd, imm6` (R173). -/
def execAddRi6 (rd : RegNum) (imm6 : BitVec 6) (s : State) : Result :=
  admitted (.addRi6 rd imm6) s (addWord s rd (immRi6 s imm6))

/-- `sub rd, rs` (R174). -/
def execSubRr (rd rs : RegNum) (s : State) : Result :=
  admitted (.subRr rd rs) s (subWord s rd (s.reg rs))

/-- `sub rd, imm6` (R175). -/
def execSubRi6 (rd : RegNum) (imm6 : BitVec 6) (s : State) : Result :=
  admitted (.subRi6 rd imm6) s (subWord s rd (immRi6 s imm6))

/-- `addc rd, rs` (R176). -/
def execAddcRr (rd rs : RegNum) (s : State) : Result :=
  admitted (.addcRr rd rs) s (addCarryWord s rd (s.reg rs))

/-- `addc rd, imm6` (R177). -/
def execAddcRi6 (rd : RegNum) (imm6 : BitVec 6) (s : State) : Result :=
  admitted (.addcRi6 rd imm6) s (addCarryWord s rd (immRi6 s imm6))

/-- `subc rd, rs` (R178). -/
def execSubcRr (rd rs : RegNum) (s : State) : Result :=
  admitted (.subcRr rd rs) s (subBorrowWord s rd (s.reg rs))

/-- `subc rd, imm6` (R179). -/
def execSubcRi6 (rd : RegNum) (imm6 : BitVec 6) (s : State) : Result :=
  admitted (.subcRi6 rd imm6) s (subBorrowWord s rd (immRi6 s imm6))

end Sys2Proof.Machine
end

