-- ==== Sys2Proof/Machine/Branch.lean ====
section
/-! DEFINITION. The branch instructions (42_branches.md). -/

namespace Sys2Proof.Machine

/-- `jump rd`: the absolute target is in `rd` (R150). -/
def execJumpRr (rd : RegNum) (s : State) : Result :=
  admitted (.jumpRr rd) s (.next (s.endPrefixState.jumpTo (s.reg rd)))

/-- `jump imm11`, relative (R151). -/
def execJumpI11 (imm11 : BitVec 11) (s : State) : Result :=
  admitted (.jumpI11 imm11) s (.next (s.endPrefixState.jumpTo (relTarget s imm11)))

/-- `call rd`: the target is read before `r0` receives `pcn` (R154, log 29). -/
def execCallRr (rd : RegNum) (s : State) : Result :=
  admitted (.callRr rd) s (.next ((s.setReg 0#4 s.pcn).endPrefixState.jumpTo (s.reg rd)))

/-- `call imm11`, relative: `r0` receives `pcn` (R153). -/
def execCallI11 (imm11 : BitVec 11) (s : State) : Result :=
  admitted (.callI11 imm11) s (.next ((s.setReg 0#4 s.pcn).endPrefixState.jumpTo (relTarget s imm11)))

end Sys2Proof.Machine
end

