-- ==== Sys2Proof/Machine/LoadStore.lean ====
section
/-! DEFINITION. The load and store instructions (43_load_store.md). -/

namespace Sys2Proof.Machine

/-- The end of a load: the value goes to `rd`, or the byte that holds no value stops the run (U16, log 6). -/
def loadInto (s : State) (rd : RegNum) (v : Option Word) : Result :=
  match v with
  | some x => writeBack s rd x
  | none => .fault .noByte

/-- `load rd, [rs, imm4]` (R161). -/
def execLoad (rd rs : RegNum) (imm4 : BitVec 4) (s : State) : Result :=
  admitted (.load rd rs imm4) s (loadInto s rd (s.readWord (wordAddr s rs imm4)))

/-- `store [rs, imm4], rd` (R162). -/
def execStore (rd rs : RegNum) (imm4 : BitVec 4) (s : State) : Result :=
  admitted (.store rd rs imm4) s (retire (s.writeWord (wordAddr s rs imm4) (s.reg rd)))

/-- `loadb rd, [rs, imm4]`: the byte is sign extended (R163). -/
def execLoadb (rd rs : RegNum) (imm4 : BitVec 4) (s : State) : Result :=
  admitted (.loadb rd rs imm4) s (loadInto s rd ((s.readByte (byteAddr s rs imm4)).map (BitVec.signExtend 16)))

/-- `storeb [rs, imm4], rd`: the low byte of `rd` (R164). -/
def execStoreb (rd rs : RegNum) (imm4 : BitVec 4) (s : State) : Result :=
  admitted (.storeb rd rs imm4) s (retire (s.writeByte (byteAddr s rs imm4) ((s.reg rd).extractLsb' 0 8)))

end Sys2Proof.Machine
end

