-- ==== Sys2Proof/Machine/LogicShift.lean ====
section
/-! DEFINITION. The logic and shift instructions (45_logic_shift.md). -/

namespace Sys2Proof.Machine

/-- `xor rd, rs` (R191). -/
def execXorRr (rd rs : RegNum) (s : State) : Result :=
  admitted (.xorRr rd rs) s (writeBack s rd (s.reg rd ^^^ s.reg rs))

/-- `xor rd, imm6` (R192). -/
def execXorRi6 (rd : RegNum) (imm6 : BitVec 6) (s : State) : Result :=
  admitted (.xorRi6 rd imm6) s (writeBack s rd (s.reg rd ^^^ immRi6 s imm6))

/-- `and rd, rs` (R193). -/
def execAndRr (rd rs : RegNum) (s : State) : Result :=
  admitted (.andRr rd rs) s (writeBack s rd (s.reg rd &&& s.reg rs))

/-- `and rd, imm6` (R194). -/
def execAndRi6 (rd : RegNum) (imm6 : BitVec 6) (s : State) : Result :=
  admitted (.andRi6 rd imm6) s (writeBack s rd (s.reg rd &&& immRi6 s imm6))

/-- `or rd, rs` (R195). -/
def execOrRr (rd rs : RegNum) (s : State) : Result :=
  admitted (.orRr rd rs) s (writeBack s rd (s.reg rd ||| s.reg rs))

/-- `or rd, imm6` (R196). -/
def execOrRi6 (rd : RegNum) (imm6 : BitVec 6) (s : State) : Result :=
  admitted (.orRi6 rd imm6) s (writeBack s rd (s.reg rd ||| immRi6 s imm6))

/-- `shl rd, rs` (R198). -/
def execShlRr (rd rs : RegNum) (s : State) : Result :=
  admitted (.shlRr rd rs) s (writeBack s rd (shiftLeft (s.reg rd) (s.reg rs)))

/-- `shl rd, imm6` (R199). -/
def execShlRi6 (rd : RegNum) (imm6 : BitVec 6) (s : State) : Result :=
  admitted (.shlRi6 rd imm6) s (writeBack s rd (shiftLeft (s.reg rd) (immRi6 s imm6)))

/-- `shr rd, rs` (R200). -/
def execShrRr (rd rs : RegNum) (s : State) : Result :=
  admitted (.shrRr rd rs) s (writeBack s rd (shiftRight (s.reg rd) (s.reg rs)))

/-- `shr rd, imm6` (R201). -/
def execShrRi6 (rd : RegNum) (imm6 : BitVec 6) (s : State) : Result :=
  admitted (.shrRi6 rd imm6) s (writeBack s rd (shiftRight (s.reg rd) (immRi6 s imm6)))

/-- `asr rd, rs` (R202). -/
def execAsrRr (rd rs : RegNum) (s : State) : Result :=
  admitted (.asrRr rd rs) s (writeBack s rd (shiftArith (s.reg rd) (s.reg rs)))

/-- `asr rd, imm6` (R203). -/
def execAsrRi6 (rd : RegNum) (imm6 : BitVec 6) (s : State) : Result :=
  admitted (.asrRi6 rd imm6) s (writeBack s rd (shiftArith (s.reg rd) (immRi6 s imm6)))

end Sys2Proof.Machine
end

