-- ==== Sys2Proof/Machine/Move.lean ====
section
/-! DEFINITION. The move instructions (41_move.md). -/

namespace Sys2Proof.Machine

/-- `move rd, rs` (R140). -/
def execMoveRr (rd rs : RegNum) (s : State) : Result :=
  admitted (.moveRr rd rs) s (writeBack s rd (s.reg rs))

/-- `move rd, imm8` (R141). -/
def execMoveRi8 (rd : RegNum) (imm8 : BitVec 8) (s : State) : Result :=
  admitted (.moveRi8 rd imm8) s (writeBack s rd (immRi8 s imm8))

/-- `loadc rd, rs` (R142): the constant at the address in `rs` (log 8). -/
def execLoadcRr (rd rs : RegNum) (s : State) : Result :=
  admitted (.loadcRr rd rs) s (writeBack s rd (Config.constMem (s.reg rs)))

/-- `loadc rd, imm8` (R143): the constant at the address `imm_eff` (log 8). -/
def execLoadcRi8 (rd : RegNum) (imm8 : BitVec 8) (s : State) : Result :=
  admitted (.loadcRi8 rd imm8) s (writeBack s rd (Config.constMem (immRi8 s imm8)))

end Sys2Proof.Machine
end

