-- ==== Sys2Proof/Machine/Skip.lean ====
section
/-! DEFINITION. The skip instructions `if.cc` (46_skip.md): the condition compares `x[rd]` with `src` (R210), and
a false one sets `SKIP` (R211). -/

namespace Sys2Proof.Machine

/-- `if.eq rd, rs` (R212). -/
def execIfEqRr (rd rs : RegNum) (s : State) : Result :=
  admitted (.ifEqRr rd rs) s (skipUnless s (s.reg rd == s.reg rs))

/-- `if.eq rd, imm6` (R213). -/
def execIfEqRi6 (rd : RegNum) (imm6 : BitVec 6) (s : State) : Result :=
  admitted (.ifEqRi6 rd imm6) s (skipUnless s (s.reg rd == immRi6 s imm6))

/-- `if.ne rd, rs` (R214). -/
def execIfNeRr (rd rs : RegNum) (s : State) : Result :=
  admitted (.ifNeRr rd rs) s (skipUnless s (s.reg rd != s.reg rs))

/-- `if.ne rd, imm6` (R215). -/
def execIfNeRi6 (rd : RegNum) (imm6 : BitVec 6) (s : State) : Result :=
  admitted (.ifNeRi6 rd imm6) s (skipUnless s (s.reg rd != immRi6 s imm6))

/-- `if.lt rd, rs` (R216). -/
def execIfLtRr (rd rs : RegNum) (s : State) : Result :=
  admitted (.ifLtRr rd rs) s (skipUnless s (signedLess (s.reg rd) (s.reg rs)))

/-- `if.lt rd, imm6` (R217). -/
def execIfLtRi6 (rd : RegNum) (imm6 : BitVec 6) (s : State) : Result :=
  admitted (.ifLtRi6 rd imm6) s (skipUnless s (signedLess (s.reg rd) (immRi6 s imm6)))

/-- `if.ge rd, rs` (R218). -/
def execIfGeRr (rd rs : RegNum) (s : State) : Result :=
  admitted (.ifGeRr rd rs) s (skipUnless s (!signedLess (s.reg rd) (s.reg rs)))

/-- `if.ge rd, imm6` (R219). -/
def execIfGeRi6 (rd : RegNum) (imm6 : BitVec 6) (s : State) : Result :=
  admitted (.ifGeRi6 rd imm6) s (skipUnless s (!signedLess (s.reg rd) (immRi6 s imm6)))

/-- `if.ult rd, rs` (R220). -/
def execIfUltRr (rd rs : RegNum) (s : State) : Result :=
  admitted (.ifUltRr rd rs) s (skipUnless s (unsignedLess (s.reg rd) (s.reg rs)))

/-- `if.ult rd, imm6` (R221). -/
def execIfUltRi6 (rd : RegNum) (imm6 : BitVec 6) (s : State) : Result :=
  admitted (.ifUltRi6 rd imm6) s (skipUnless s (unsignedLess (s.reg rd) (immRi6 s imm6)))

/-- `if.uge rd, rs` (R222). -/
def execIfUgeRr (rd rs : RegNum) (s : State) : Result :=
  admitted (.ifUgeRr rd rs) s (skipUnless s (!unsignedLess (s.reg rd) (s.reg rs)))

/-- `if.uge rd, imm6` (R223). -/
def execIfUgeRi6 (rd : RegNum) (imm6 : BitVec 6) (s : State) : Result :=
  admitted (.ifUgeRi6 rd imm6) s (skipUnless s (!unsignedLess (s.reg rd) (immRi6 s imm6)))

end Sys2Proof.Machine
end

