-- ==== Sys2Proof/Machine/System.lean ====
section
/-! DEFINITION. The system instructions (40_system.md section 2) and the reserved encodings, which R121
refuses before it looks at the prefix or skip state. -/

namespace Sys2Proof.Machine

/-- `nop`: do nothing (R125). -/
def execNop (s : State) : Result :=
  admitted .nop s (retire s)

/-- `rets`: the spec gives it no effect (R126, R240): `refuse("rets: no semantics in source")`. Safe (log 12). -/
def execRets (s : State) : Result :=
  admitted .rets s (.refused .retsNoSemantics)

/-- `error`: assert the error line; the pc and the flags stay (R127, log 35). -/
def execError (s : State) : Result :=
  admitted .error s (.next s.assertError)

/-- `halt`: assert the halt line; the pc and the flags stay (R128, log 35). -/
def execHalt (s : State) : Result :=
  admitted .halt s (.next s.assertHalt)

/-- `rcsr rd, csr` (R129): `rd` receives the free value `CsrRead`; the read may change the CSR file
(log 10), and nothing else (log 11). -/
def execRcsr (rd : RegNum) (csr : CsrNum) (s : State) : Result :=
  admitted (.rcsr rd csr) s
    (writeBack (s.setCsrFile (Config.csrReadNext s.csrFile csr)) rd (Config.csrRead s.csrFile csr))

/-- `wcsr csr, rd` (R130): `CsrWrite` takes the CSR file to a free state (log 10), and changes nothing else
(log 11). -/
def execWcsr (csr : CsrNum) (rd : RegNum) (s : State) : Result :=
  admitted (.wcsr csr rd) s (retire (s.setCsrFile (Config.csrWrite s.csrFile csr (s.reg rd))))

/-- `imm value` (R131): `IMM12 <- w[15:4]; IMMV <- 1`; `C`, `UC`, `SKIP` unchanged. -/
def execImm (imm12 : BitVec 12) (s : State) : Result :=
  admitted (.imm imm12) s (.next (s.setImm imm12).advance)

/-- An rr word with op 9 or 11: `refuse("reserved encoding")` (R97). Safe (log 13). -/
def execReservedOp9or11 (_ : Word) (_ : State) : Result :=
  .refused .reservedEncoding

/-- An rr word with op 12 to 15: `refuse("reserved encoding")` (R98). Safe (log 13). -/
def execReservedOp12to15 (_ : Word) (_ : State) : Result :=
  .refused .reservedEncoding

/-- An rr word with bit 7 set: `refuse("reserved bit 7")` (R99). Safe (log 13). -/
def execReservedBit7 (_ : Word) (_ : State) : Result :=
  .refused .reservedBit7

end Sys2Proof.Machine
end

