-- ==== Sys2Proof/Machine/Dispatch.lean ====
section
/-! DEFINITION. `exec`: one arm per instruction, each one call of its meaning. -/

namespace Sys2Proof.Machine

/-- What executing one instruction does (`SKIP = 0`, not stopped). -/
def exec (i : Instr) (s : State) : Host.Outcome State Fault Refusal :=
  match i with
  | .nop => Sys2Proof.Machine.execNop s
  | .rets => Sys2Proof.Machine.execRets s
  | .error => Sys2Proof.Machine.execError s
  | .halt => Sys2Proof.Machine.execHalt s
  | .rcsr rd csr => Sys2Proof.Machine.execRcsr rd csr s
  | .wcsr csr rd => Sys2Proof.Machine.execWcsr csr rd s
  | .moveRr rd rs => Sys2Proof.Machine.execMoveRr rd rs s
  | .moveRi8 rd imm8 => Sys2Proof.Machine.execMoveRi8 rd imm8 s
  | .loadcRr rd rs => Sys2Proof.Machine.execLoadcRr rd rs s
  | .loadcRi8 rd imm8 => Sys2Proof.Machine.execLoadcRi8 rd imm8 s
  | .jumpRr rd => Sys2Proof.Machine.execJumpRr rd s
  | .jumpI11 imm11 => Sys2Proof.Machine.execJumpI11 imm11 s
  | .imm imm12 => Sys2Proof.Machine.execImm imm12 s
  | .callRr rd => Sys2Proof.Machine.execCallRr rd s
  | .callI11 imm11 => Sys2Proof.Machine.execCallI11 imm11 s
  | .load rd rs imm4 => Sys2Proof.Machine.execLoad rd rs imm4 s
  | .store rd rs imm4 => Sys2Proof.Machine.execStore rd rs imm4 s
  | .loadb rd rs imm4 => Sys2Proof.Machine.execLoadb rd rs imm4 s
  | .storeb rd rs imm4 => Sys2Proof.Machine.execStoreb rd rs imm4 s
  | .addRr rd rs => Sys2Proof.Machine.execAddRr rd rs s
  | .addRi6 rd imm6 => Sys2Proof.Machine.execAddRi6 rd imm6 s
  | .subRr rd rs => Sys2Proof.Machine.execSubRr rd rs s
  | .subRi6 rd imm6 => Sys2Proof.Machine.execSubRi6 rd imm6 s
  | .addcRr rd rs => Sys2Proof.Machine.execAddcRr rd rs s
  | .addcRi6 rd imm6 => Sys2Proof.Machine.execAddcRi6 rd imm6 s
  | .subcRr rd rs => Sys2Proof.Machine.execSubcRr rd rs s
  | .subcRi6 rd imm6 => Sys2Proof.Machine.execSubcRi6 rd imm6 s
  | .xorRr rd rs => Sys2Proof.Machine.execXorRr rd rs s
  | .xorRi6 rd imm6 => Sys2Proof.Machine.execXorRi6 rd imm6 s
  | .andRr rd rs => Sys2Proof.Machine.execAndRr rd rs s
  | .andRi6 rd imm6 => Sys2Proof.Machine.execAndRi6 rd imm6 s
  | .orRr rd rs => Sys2Proof.Machine.execOrRr rd rs s
  | .orRi6 rd imm6 => Sys2Proof.Machine.execOrRi6 rd imm6 s
  | .shlRr rd rs => Sys2Proof.Machine.execShlRr rd rs s
  | .shlRi6 rd imm6 => Sys2Proof.Machine.execShlRi6 rd imm6 s
  | .shrRr rd rs => Sys2Proof.Machine.execShrRr rd rs s
  | .shrRi6 rd imm6 => Sys2Proof.Machine.execShrRi6 rd imm6 s
  | .asrRr rd rs => Sys2Proof.Machine.execAsrRr rd rs s
  | .asrRi6 rd imm6 => Sys2Proof.Machine.execAsrRi6 rd imm6 s
  | .ifEqRr rd rs => Sys2Proof.Machine.execIfEqRr rd rs s
  | .ifEqRi6 rd imm6 => Sys2Proof.Machine.execIfEqRi6 rd imm6 s
  | .ifNeRr rd rs => Sys2Proof.Machine.execIfNeRr rd rs s
  | .ifNeRi6 rd imm6 => Sys2Proof.Machine.execIfNeRi6 rd imm6 s
  | .ifLtRr rd rs => Sys2Proof.Machine.execIfLtRr rd rs s
  | .ifLtRi6 rd imm6 => Sys2Proof.Machine.execIfLtRi6 rd imm6 s
  | .ifGeRr rd rs => Sys2Proof.Machine.execIfGeRr rd rs s
  | .ifGeRi6 rd imm6 => Sys2Proof.Machine.execIfGeRi6 rd imm6 s
  | .ifUltRr rd rs => Sys2Proof.Machine.execIfUltRr rd rs s
  | .ifUltRi6 rd imm6 => Sys2Proof.Machine.execIfUltRi6 rd imm6 s
  | .ifUgeRr rd rs => Sys2Proof.Machine.execIfUgeRr rd rs s
  | .ifUgeRi6 rd imm6 => Sys2Proof.Machine.execIfUgeRi6 rd imm6 s
  | .reservedOp9or11 w => Sys2Proof.Machine.execReservedOp9or11 w s
  | .reservedOp12to15 w => Sys2Proof.Machine.execReservedOp12to15 w s
  | .reservedBit7 w => Sys2Proof.Machine.execReservedBit7 w s

end Sys2Proof.Machine
end

