-- ==== Sys2Proof/Machine/Run.lean ====
section
/-! DEFINITION. What the step does with a fetched instruction (40_system.md R121): it skips it or executes it. -/

namespace Sys2Proof.Machine

/-- Execute or skip the instruction `i` at the pc (R121). A reserved word is refused before `SKIP` is looked
at, by its own meaning (log 13). -/
def stepInstr (i : Instr) (s : State) : Result :=
  if s.skip && !i.isReserved then .next (skipOver i s) else exec i s

end Sys2Proof.Machine
end

