-- ==== Sys2Proof/Machine/Step.lean ====
section
/-! DEFINITION. One step of the core (40_system.md R121), and the placing of a word where the next step
fetches. -/

namespace Sys2Proof.Machine

/-- One step (R121). A stopped core spins: it stays in its state for ever (R30, R31, U20; log 16). -/
def step (s : State) : Host.Outcome State Fault Refusal :=
  if s.stopped then .next s
  else
    match s.instrAt s.pc with
    | none => .fault .noInstruction
    | some w => stepInstr (decode w) s

/-- The state with the table word `w` at the pc, where the next step of a core that is neither stopped nor
skipping fetches and runs it: the load of one word of a program from outside (log 4). -/
def State.withFetchWord (s : State) (nbits w : Nat) : State :=
  s.placeInstr s.pc (BitVec.ofNat 16 (w % 2 ^ nbits))

end Sys2Proof.Machine
end

