-- ==== Sys2Proof/Safety.lean ====
section
/-! DEFINITION. The terms claims are stated in: runs and how they end, what an instruction leaves unchanged,
the invariant of the machine. -/

namespace Sys2Proof.Machine

/-! ## Runs -/

/-- `k` steps from `s`; a stop ends the run. -/
def runFor : Nat → State → Result
  | 0, s => .next s
  | k + 1, s =>
    match step s with
    | .next t => runFor k t
    | .fault f => .fault f
    | .refused r => .refused r

/-- A run of `k` steps is safe: no step of it faults or is refused. -/
def SafeFor (k : Nat) (s : State) : Prop := ∃ t, runFor k s = .next t

/-- The run has ended with success after at most `k` steps: the halt line is asserted (R132). -/
def SucceedsWithin (k : Nat) (s : State) : Prop := ∃ t, runFor k s = .next t ∧ t.halt = true

/-- The run has ended with failure after at most `k` steps: the error line is asserted (R132). -/
def FailsWithin (k : Nat) (s : State) : Prop := ∃ t, runFor k s = .next t ∧ t.error = true

/-- The instructions executed one after the other, as a program with no skip and no branch runs them. -/
def execAll : List Instr → State → Result
  | [], s => .next s
  | i :: rest, s =>
    match exec i s with
    | .next t => execAll rest t
    | .fault f => .fault f
    | .refused r => .refused r

/-- The instruction the next step of `s` executes: `s` is neither stopped nor skipping, and the word at its pc
decodes to `i` (R121). -/
def Executes (s : State) (i : Instr) : Prop :=
  s.stopped = false ∧ s.skip = false ∧ ∃ w, s.instrAt s.pc = some w ∧ decode w = i

/-- The next step of `s` stores to the data byte at `a`: it executes a `store` whose word holds that byte, or a `storeb`
to it (R162, R164). -/
def StoresAt (a : Word) (s : State) : Prop :=
  ∃ rd rs imm4,
    (Executes s (.store rd rs imm4) ∧ (a = wordAddr s rs imm4 ∨ a = wordAddr s rs imm4 + 1#16)) ∨
    (Executes s (.storeb rd rs imm4) ∧ a = byteAddr s rs imm4)

/-! ## Frames -/

/-- Every general register is unchanged. -/
def SameRegs (s t : State) : Prop := ∀ r, t.reg r = s.reg r

/-- Every general register but `rd` is unchanged. -/
def SameRegsBut (rd : RegNum) (s t : State) : Prop := ∀ r, r ≠ rd → t.reg r = s.reg r

/-- Every byte of data memory reads as before. -/
def SameMemory (s t : State) : Prop := ∀ a, t.readByte a = s.readByte a

/-- Every byte of data memory outside `a` and `a + 1` reads as before. -/
def SameMemoryButWord (a : Word) (s t : State) : Prop := ∀ b, b ≠ a → b ≠ a + 1#16 → t.readByte b = s.readByte b

/-- Every byte of data memory but the one at `a` reads as before. -/
def SameMemoryButByte (a : Word) (s t : State) : Prop := ∀ b, b ≠ a → t.readByte b = s.readByte b

/-- The halt and error lines, the imm register's 12 bits and the program text are unchanged. -/
def SameLines (s t : State) : Prop :=
  t.halt = s.halt ∧ t.error = s.error ∧ t.imm12 = s.imm12 ∧ ∀ a, t.instrAt a = s.instrAt a

/-- `SameLines`, and the skip flag and the CSR file are unchanged. -/
def SameControl (s t : State) : Prop := SameLines s t ∧ t.skip = s.skip ∧ t.csrFile = s.csrFile

/-- The prefix state has ended: `IMMV = UC = C = 0` (R123). -/
def PrefixEnded (t : State) : Prop := t.immv = false ∧ t.uc = false ∧ t.c = false

/-- From `s` to `t` register `rd` received `v`, the pc advanced, the prefix state ended, and nothing else
changed. -/
def WritesOnly (rd : RegNum) (v : Word) (s t : State) : Prop :=
  t.reg rd = v ∧ SameRegsBut rd s t ∧ t.pc = s.pc + 1#16 ∧ PrefixEnded t ∧ SameMemory s t ∧ SameControl s t

/-- From `s` to `t` the pc advanced, the prefix state ended, and nothing else changed. -/
def AdvancesOnly (s t : State) : Prop :=
  SameRegs s t ∧ t.pc = s.pc + 1#16 ∧ PrefixEnded t ∧ SameMemory s t ∧ SameControl s t

/-- From `s` to `t` the pc went to `target`, the prefix state ended, and nothing else changed. -/
def JumpsOnly (target : Word) (s t : State) : Prop :=
  SameRegs s t ∧ t.pc = target ∧ PrefixEnded t ∧ SameMemory s t ∧ SameControl s t

/-- From `s` to `t` the pc went to `target`, `r0` received the address after `s.pc`, the prefix state ended,
and nothing else changed. -/
def CallsOnly (target : Word) (s t : State) : Prop :=
  t.reg 0#4 = s.pc + 1#16 ∧ SameRegsBut 0#4 s t ∧ t.pc = target ∧ PrefixEnded t ∧ SameMemory s t ∧ SameControl s t

/-- From `s` to `t` register `rd` received `v`, the prefix state became that of `addc`/`subc` with this
carry, the pc advanced, and nothing else changed. -/
def WritesWithCarry (rd : RegNum) (v : Word) (carry : Bool) (s t : State) : Prop :=
  t.reg rd = v ∧ t.c = carry ∧ t.uc = true ∧ t.immv = false ∧ SameRegsBut rd s t ∧ t.pc = s.pc + 1#16 ∧
    SameMemory s t ∧ SameControl s t

/-- From `s` to `t` an `if.cc` with condition `cond` ran: `SKIP` is set if it is false, the pc advanced, the
prefix state ended, and nothing else changed. -/
def TestsOnly (cond : Prop) (s t : State) : Prop :=
  (cond → t.skip = s.skip) ∧ (¬ cond → t.skip = true) ∧ SameRegs s t ∧ t.pc = s.pc + 1#16 ∧ PrefixEnded t ∧
    SameMemory s t ∧ SameLines s t ∧ t.csrFile = s.csrFile

/-- The pending prefix state admits every rr instruction: none is pending (R122). -/
def NoPrefix (s : State) : Prop := s.immv = false ∧ s.uc = false

/-- The general register that executing the instruction may write, if there is one (R20, R22). -/
def dest : Instr → Option RegNum
  | .nop => none
  | .rets => none
  | .error => none
  | .halt => none
  | .rcsr rd _ => some rd
  | .wcsr _ _ => none
  | .moveRr rd _ => some rd
  | .moveRi8 rd _ => some rd
  | .loadcRr rd _ => some rd
  | .loadcRi8 rd _ => some rd
  | .jumpRr _ => none
  | .jumpI11 _ => none
  | .imm _ => none
  | .callRr _ => some 0#4
  | .callI11 _ => some 0#4
  | .load rd _ _ => some rd
  | .store _ _ _ => none
  | .loadb rd _ _ => some rd
  | .storeb _ _ _ => none
  | .addRr rd _ => some rd
  | .addRi6 rd _ => some rd
  | .subRr rd _ => some rd
  | .subRi6 rd _ => some rd
  | .addcRr rd _ => some rd
  | .addcRi6 rd _ => some rd
  | .subcRr rd _ => some rd
  | .subcRi6 rd _ => some rd
  | .xorRr rd _ => some rd
  | .xorRi6 rd _ => some rd
  | .andRr rd _ => some rd
  | .andRi6 rd _ => some rd
  | .orRr rd _ => some rd
  | .orRi6 rd _ => some rd
  | .shlRr rd _ => some rd
  | .shlRi6 rd _ => some rd
  | .shrRr rd _ => some rd
  | .shrRi6 rd _ => some rd
  | .asrRr rd _ => some rd
  | .asrRi6 rd _ => some rd
  | .ifEqRr _ _ => none
  | .ifEqRi6 _ _ => none
  | .ifNeRr _ _ => none
  | .ifNeRi6 _ _ => none
  | .ifLtRr _ _ => none
  | .ifLtRi6 _ _ => none
  | .ifGeRr _ _ => none
  | .ifGeRi6 _ _ => none
  | .ifUltRr _ _ => none
  | .ifUltRi6 _ _ => none
  | .ifUgeRr _ _ => none
  | .ifUgeRi6 _ _ => none
  | .reservedOp9or11 _ => none
  | .reservedOp12to15 _ => none
  | .reservedBit7 _ => none

/-- `i` is one of the six `if.cc`, in either format. -/
def IsIf (i : Instr) : Prop :=
  (∃ rd rs, i = .ifEqRr rd rs ∨ i = .ifNeRr rd rs ∨ i = .ifLtRr rd rs ∨ i = .ifGeRr rd rs ∨ i = .ifUltRr rd rs ∨
    i = .ifUgeRr rd rs) ∨
  (∃ rd imm6, i = .ifEqRi6 rd imm6 ∨ i = .ifNeRi6 rd imm6 ∨ i = .ifLtRi6 rd imm6 ∨ i = .ifGeRi6 rd imm6 ∨
    i = .ifUltRi6 rd imm6 ∨ i = .ifUgeRi6 rd imm6)

/-- The word is `imm` in i12 format, or `addc` (op 18) or `subc` (op 19) in rr or ri6 format, by its bits alone (R90,
R83, R84, R124). -/
def IsPrefixWord (w : Word) : Prop :=
  w &&& 0x000F#16 = 0x000D#16 ∨ w &&& 0x00FF#16 = 0x0048#16 ∨ w &&& 0x003F#16 = 0x000B#16 ∨
    w &&& 0x00FF#16 = 0x004C#16 ∨ w &&& 0x003F#16 = 0x000F#16

/-! ## Multi-word numbers -/

/-- The number held by the registers, least significant word first (R181). -/
def wordsValue (s : State) : List RegNum → Nat
  | [] => 0
  | r :: rest => (s.reg r).toNat + 65536 * wordsValue s rest

/-- The instructions that add, or subtract, the numbers held by a chain of (destination, source) register
pairs: the prefix form on all but the last pair, the plain form on the last (R181). -/
def chain (link last : RegNum → RegNum → Instr) : List (RegNum × RegNum) → List Instr
  | [] => []
  | [p] => [last p.1 p.2]
  | p :: q :: rest => link p.1 p.2 :: chain link last (q :: rest)

/-! ## The invariant -/

/-- What every step keeps: the prefix-state invariant of 10_state.md R37, `UC = 0` implies `C = 0` (R27), and
the canonical form of the two memories. -/
structure Inv (s : State) : Prop where
  /-- R37 (a). -/
  skipHasNoPrefix : s.skip = true → s.immv = false ∧ s.uc = false ∧ s.c = false
  /-- R37 (b). -/
  oneKindOfPrefix : ¬ (s.immv = true ∧ s.uc = true)
  /-- R37 (c). -/
  oneLine : ¬ (s.halt = true ∧ s.error = true)
  /-- R27. -/
  carryIsUsed : s.uc = false → s.c = false
  /-- Data memory is canonical, its addresses below 2^16. -/
  dmemWf : Memory.wf s.dmem = true
  /-- The program text is canonical, its addresses below 2^16. -/
  imemWf : Sparse.wf s.imem = true

end Sys2Proof.Machine
end

