-- ==== Sys2Proof/Certificates/Slice0/Obligations.lean ====
section
/-! DEFINITION. The statements for the provers, from the rules of spec/. In a docstring "log n" names the
assumption a clause rests on. -/

open Sys2Proof Sys2Proof.Machine

/-! ## Encoding -/

/-- Words of 95_test_vectors.md, each written out there from the encoding of its format, decode to the instructions
they stand for: 123D, 000C, 5791, 3918, 3020, 0055, 52F2, 52FE, 33CB, 1544 of section 1.1; 1FD3 of section 1.3; FFFD and
1001 (VS12), 000D and 1051 (VS13), 002C (VS4) of section 2.1; 1264 of section 2.6; 127C of section 2.7. The low bits of
the ri8 words 5791, 1001, 1051 are the spec's decision D1 (log 18); that 002C is a reserved word, decoded to a
constructor of its own, is the model's choice after the spec's decision D14 (log 13). -/
def Obligations.SpecWordsDecode : Prop :=
  decode 0x123D#16 = .imm 0x123#12 ∧ decode 0xFFFD#16 = .imm 0xFFF#12 ∧ decode 0x1001#16 = .moveRi8 1#4 0#8 ∧
  decode 0x000D#16 = .imm 0x000#12 ∧ decode 0x1051#16 = .moveRi8 1#4 5#8 ∧ decode 0x000C#16 = .halt ∧
  decode 0x5791#16 = .moveRi8 5#4 121#8 ∧ decode 0x3918#16 = .moveRr 3#4 9#4 ∧
  decode 0x3020#16 = .jumpRr 3#4 ∧ decode 0x0055#16 = .callI11 2#11 ∧ decode 0x52F2#16 = .load 5#4 2#4 15#4 ∧
  decode 0x52FE#16 = .storeb 5#4 2#4 15#4 ∧ decode 0x33CB#16 = .addcRi6 3#4 15#6 ∧
  decode 0x1544#16 = .subRr 1#4 5#4 ∧ decode 0x1FD3#16 = .xorRi6 1#4 63#6 ∧ decode 0x1264#16 = .asrRr 1#4 2#4 ∧
  decode 0x127C#16 = .ifUgeRr 1#4 2#4 ∧ decode 0x002C#16 = .reservedOp9or11 0x002C#16

/-- Decoding the word of a well-formed instruction gives it back, every operand at every value. -/
def Obligations.DecodeOfEncodeIsIdentity : Prop :=
  ∀ i : Instr, i.wellFormed = true → decode (encode i) = i

/-- Every word decodes to a well-formed instruction whose word it is, up to the N/A fields; and the N/A fields
do not influence decoding (R100, the spec's decision D14, log 14). -/
def Obligations.EncodeOfDecodeDropsOnlyNaFields : Prop :=
  (∀ w : Word, (decode w).wellFormed = true ∧ encode (decode w) = w &&& (decode w).readBits) ∧
  (∀ w v : Word, v &&& (decode w).readBits = w &&& (decode w).readBits → decode v = decode w)

/-- Every word matches the mask and match of its instruction's row of the opcode table, and of no other row
(R106, derived in the spec; R81). -/
def Obligations.EveryWordLiesInOneRow : Prop :=
  ∀ w : Word, w &&& (decode w).row.1 = (decode w).row.2 ∧
    ∀ i : Instr, w &&& i.row.1 = i.row.2 → i.row = (decode w).row

/-! ## The step -/

/-- A step of a core that is neither stopped nor skipping executes the instruction its pc names (R120,
R121). -/
def Obligations.StepExecutesTheDecodedInstruction : Prop :=
  ∀ (s : State) (w : Word), s.stopped = false → s.skip = false → s.instrAt s.pc = some w →
    step s = exec (decode w) s

/-- Every pc value is the address of one instruction: from any address, odd or even, the word placed there is
fetched whole and executed (R54). One instruction for each pc value, in a space of its own, is the spec's decision D3
(log 19); the program text as data, in which a word is placed, is the model's choice (log 4). -/
def Obligations.EveryPcValueNamesAnInstruction : Prop :=
  ∀ (s : State) (a w : Word), s.stopped = false → s.skip = false →
    step ((s.jumpTo a).placeInstr a w) = exec (decode w) ((s.jumpTo a).placeInstr a w)

/-- A fetch from an instruction address outside the program text is a fault (U17, the model's stop, log 5). -/
def Obligations.FetchOutsideProgramFaults : Prop :=
  ∀ s : State, s.stopped = false → s.instrAt s.pc = none → step s = .fault .noInstruction

/-- While `SKIP = 1` the instruction at the pc acts like a nop: only the pc and `SKIP` change, and `SKIP` stays 1
exactly behind `imm`, `addc` and `subc` (R29, R121, R124). -/
def Obligations.SkippedInstructionActsLikeNop : Prop :=
  ∀ (s : State) (w : Word), s.stopped = false → s.skip = true → s.instrAt s.pc = some w →
    (decode w).isReserved = false →
    ∃ t, step s = .next t ∧ t.pc = s.pc + 1#16 ∧ SameRegs s t ∧ SameMemory s t ∧ SameLines s t ∧
      t.csrFile = s.csrFile ∧ t.c = s.c ∧ t.uc = s.uc ∧ t.immv = s.immv ∧
      (t.skip = true ↔ (∃ v, decode w = .imm v) ∨
        (∃ rd rs, decode w = .addcRr rd rs ∨ decode w = .subcRr rd rs) ∨
        (∃ rd imm6, decode w = .addcRi6 rd imm6 ∨ decode w = .subcRi6 rd imm6))

/-- Reserved words are refused, executed or skipped (R97, R98, R99, R101; the spec's decision D14, log 13). -/
def Obligations.ReservedWordsAreRefused : Prop :=
  ∀ (s : State) (w : Word), s.stopped = false → s.instrAt s.pc = some w →
    (w &&& 0x00F7#16 = 0x0024#16 → step s = .refused .reservedEncoding) ∧
    (w &&& 0x00F3#16 = 0x0030#16 → step s = .refused .reservedEncoding) ∧
    (w &&& 0x0083#16 = 0x0080#16 → step s = .refused .reservedBit7)

/-- The four instructions that stop on every path: `rets`, to which the spec gives no effect (R126, D16,
log 12), and the reserved encodings (R97 to R99, D14, log 13). -/
def Obligations.RetsAndReservedRefuse : Prop :=
  ∀ (s : State) (w : Word),
    (∃ r, exec .rets s = .refused r) ∧ (NoPrefix s → exec .rets s = .refused .retsNoSemantics) ∧
    exec (.reservedOp9or11 w) s = .refused .reservedEncoding ∧
    exec (.reservedOp12to15 w) s = .refused .reservedEncoding ∧
    exec (.reservedBit7 w) s = .refused .reservedBit7

/-! ## Prefix state -/

/-- The prefix state after every executed instruction (R123; its extent is the spec's decision D11, log 26): `imm` sets
`IMMV` and leaves `UC` and `C`; `addc` and `subc` clear `IMMV`, set `UC` and leave in `C` the carry out of the sum or the
borrow of the difference (R180; the borrow sense is the spec's decision D10, log 25); `halt` and `error`, to which the
table does not matter, are executed with `IMMV = UC = 0` only and leave `C` (the spec's decision D18, log 35); every
other instruction clears all three. -/
def Obligations.PrefixStateAfterExecution : Prop :=
  ∀ (i : Instr) (s t : State), exec i s = .next t →
    (∀ v, i = .imm v → t.immv = true ∧ t.uc = s.uc ∧ t.c = s.c) ∧
    (i.isPrefix = true → (∀ v, i ≠ .imm v) → t.immv = false ∧ t.uc = true) ∧
    (∀ rd rs, i = .addcRr rd rs → t.c = decide (65536 ≤ (s.reg rd).toNat + (s.reg rs).toNat + s.cin)) ∧
    (∀ rd imm6, i = .addcRi6 rd imm6 → t.c = decide (65536 ≤ (s.reg rd).toNat + (immRi6 s imm6).toNat + s.cin)) ∧
    (∀ rd rs, i = .subcRr rd rs → t.c = decide ((s.reg rd).toNat < (s.reg rs).toNat + s.cin)) ∧
    (∀ rd imm6, i = .subcRi6 rd imm6 → t.c = decide ((s.reg rd).toNat < (immRi6 s imm6).toNat + s.cin)) ∧
    (i = .halt ∨ i = .error → t.immv = false ∧ t.uc = false ∧ t.c = s.c) ∧
    (i.isPrefix = false → i ≠ .halt → i ≠ .error → PrefixEnded t)

/-- The four prefix sequences that R122 refuses (the spec's decision D12, log 15), each by its reason. -/
def Obligations.UndefinedPrefixSequencesAreRefused : Prop :=
  ∀ (i : Instr) (s : State), i.isReserved = false →
    (s.immv = true → i.format = .i12 → exec i s = .refused .immAfterImm) ∧
    (s.immv = true → i.format = .rr → exec i s = .refused .immBeforeRr) ∧
    (s.uc = true → s.immv = false → i.format = .i12 → exec i s = .refused .immAfterCarry) ∧
    (s.uc = true → (s.immv = false ∨ i.format ≠ .rr) → i.format ≠ .i12 → i.usesCarry = false →
      exec i s = .refused .carryBeforeOther)

/-- Nothing else is refused: a refusal comes from a reserved encoding, from `rets`, or from a prefix sequence of
R122 (logs 12, 13, 15). That `rcsr`, `wcsr` and shifts by 16 or more are not refused, where the spec's default is to
refuse (U10, U12, U13), is the model's choice (logs 9 and 10). -/
def Obligations.NothingElseIsRefused : Prop :=
  ∀ (i : Instr) (s : State) (r : Refusal), exec i s = .refused r →
    i.isReserved = true ∨ i = .rets ∨ (s.immv = true ∧ (i.format = .i12 ∨ i.format = .rr)) ∨
      (s.uc = true ∧ i.usesCarry = false)

/-- An executed instruction faults only where a load meets a byte that holds no value (U16, log 6). That a read of a
register nothing has written is no fault, against U15 and R39, is the model's choice (log 1). -/
def Obligations.OnlyLoadsOfUnwrittenBytesFault : Prop :=
  ∀ (i : Instr) (s : State) (f : Fault), exec i s = .fault f → f = .noByte ∧
    ((∃ rd rs imm4, i = .load rd rs imm4 ∧
        (s.readByte (wordAddr s rs imm4) = none ∨ s.readByte (wordAddr s rs imm4 + 1#16) = none)) ∨
      (∃ rd rs imm4, i = .loadb rd rs imm4 ∧ s.readByte (byteAddr s rs imm4) = none))

/-! ## Whole-machine rules -/

/-- After reset the pc is at the entry point, every flag and line is clear and no data byte holds a value (R39,
R260, R261: the spec's decision D19, logs 3 and 6); a reset event at any time does the same and keeps the
program text (log 31). What the registers hold is not stated (log 1). -/
def Obligations.ResetClearsFlagsAndStartsAtZero : Prop :=
  ∀ (s t : State), t = State.reset ∨ t = resetEvent s →
    t.pc = 0x0000#16 ∧ t.c = false ∧ t.uc = false ∧ t.immv = false ∧ t.skip = false ∧ t.halt = false ∧
      t.error = false ∧ (∀ a, t.readByte a = none) ∧ (∀ a, (resetEvent s).instrAt a = s.instrAt a)

/-- The reset state meets the invariant (R37, R27, R39). -/
def Obligations.ResetMeetsTheInvariant : Prop := Inv State.reset

/-- Every step keeps the invariant: the prefix-state invariant of R37 (derived in the spec), `UC = 0` implies
`C = 0` (R27), and the canonical form of both memories. -/
def Obligations.StepKeepsTheInvariant : Prop :=
  ∀ s t : State, Inv s → step s = .next t → Inv t

/-- The halt line (R30): an executed `halt` sets it, nothing else does, only reset clears it, and while it is set
no state changes. That a stopped core steps to its own state is log 16; what the reset event does is log 31 (the
spec's decision D19); that a CSR write does not set the line is the model's choice (log 11). -/
def Obligations.HaltLine : Prop :=
  (∀ s, NoPrefix s → ∃ t, exec .halt s = .next t ∧ t.halt = true) ∧
  (∀ s t, step s = .next t → s.halt = false → t.halt = true → Executes s .halt) ∧
  (∀ s, s.halt = true → step s = .next s) ∧
  (∀ s, (resetEvent s).halt = false)

/-- The error line (R31): an executed `error` sets it, nothing else does, only reset clears it, and while it is set
no state changes. That a stopped core steps to its own state is log 16; what the reset event does is log 31 (the
spec's decision D19); that a CSR write does not set the line is the model's choice (log 11). -/
def Obligations.ErrorLine : Prop :=
  (∀ s, NoPrefix s → ∃ t, exec .error s = .next t ∧ t.error = true) ∧
  (∀ s t, step s = .next t → s.error = false → t.error = true → Executes s .error) ∧
  (∀ s, s.error = true → step s = .next s) ∧
  (∀ s, (resetEvent s).error = false)

/-- A general register changes only by executing an instruction whose destination it is: `rd` where the rule
writes `x[rd]`, `r0` for `call` (R20, R22, R29). That `wcsr` changes no register, and `rcsr` none but `rd`, is the
model's choice (log 11): R130 does not bound what a CSR write changes. -/
def Obligations.RegistersChangeOnlyAsDestinations : Prop :=
  ∀ (s t : State) (r : RegNum), step s = .next t → t.reg r ≠ s.reg r → ∃ i, Executes s i ∧ dest i = some r

/-- Data memory changes only by `store` and `storeb`, and only at the bytes they address (R34, R56). -/
def Obligations.DataChangesOnlyByStores : Prop :=
  ∀ (s t : State) (a : Word), step s = .next t → t.readByte a ≠ s.readByte a →
    ∃ rd rs imm4,
      (Executes s (.store rd rs imm4) ∧ (a = wordAddr s rs imm4 ∨ a = wordAddr s rs imm4 + 1#16)) ∨
      (Executes s (.storeb rd rs imm4) ∧ a = byteAddr s rs imm4)

/-- No step changes the program text (R35, R65: the spec's decision D23, log 28). -/
def Obligations.ProgramTextNeverChanges : Prop :=
  ∀ s t : State, step s = .next t → t.imem = s.imem

/-- A step that executes neither `rcsr` nor `wcsr` leaves the CSR file alone (the model's choice, log 11). -/
def Obligations.CsrFileChangesOnlyByCsrInstructions : Prop :=
  ∀ s t : State, step s = .next t → (∀ rd n, ¬ Executes s (.rcsr rd n) ∧ ¬ Executes s (.wcsr n rd)) →
    t.csrFile = s.csrFile

/-- Every executed or skipped instruction other than `jump`, `call`, `halt` and `error` leaves the pc at the next
address, modulo 2^16; `halt` and `error` leave it (R24; the wrap is the spec's decision D2, log 19). -/
def Obligations.PcAdvancesByOneInstruction : Prop :=
  ∀ (s t : State) (w : Word), s.stopped = false → s.instrAt s.pc = some w → step s = .next t →
    ((s.skip = true ∨ ((∀ rd, decode w ≠ .jumpRr rd ∧ decode w ≠ .callRr rd) ∧
        (∀ v, decode w ≠ .jumpI11 v ∧ decode w ≠ .callI11 v) ∧ decode w ≠ .halt ∧ decode w ≠ .error)) →
      t.pc.toNat = (s.pc.toNat + 1) % 65536) ∧
    (s.skip = false → (decode w = .halt ∨ decode w = .error) → t.pc = s.pc)

/-- `SKIP` goes from 0 to 1 only by executing an `if.cc` (R29). -/
def Obligations.OnlyIfSetsSkip : Prop :=
  ∀ s t : State, step s = .next t → s.skip = false → t.skip = true → ∃ i, Executes s i ∧ IsIf i

/-- No interrupt may be taken behind a prefix instruction, executed or skipped, nor behind a false `if.cc`; behind
any other executed instruction that does not stop the core one may (R236, R239). -/
def Obligations.InterruptsWaitForPrefixAndSkip : Prop :=
  ∀ (s t : State) (w : Word), s.stopped = false → s.instrAt s.pc = some w → step s = .next t →
    ((decode w).isPrefix = true → interruptAdmitted t = false) ∧
    (IsIf (decode w) → s.skip = false → t.skip = true → interruptAdmitted t = false) ∧
    (s.skip = false → (decode w).isPrefix = false → t.skip = false → t.stopped = false →
      interruptAdmitted t = true ∧ PrefixEnded t)

/-! ## Data memory -/

/-- A word written is two bytes, bits 7:0 at the even address and 15:8 after it or the other way round, and no
other byte changes; and two bytes read as that word (R50, R55, R56, R67; the byte order is open, log 7). -/
def Obligations.WordIsTwoBytes : Prop :=
  ∀ (s : State) (a v : Word),
    SameMemoryButWord a s (s.writeWord a v) ∧ (s.writeWord a v).readWord a = some v ∧
    ∃ b0 b1, (s.writeWord a v).readByte a = some b0 ∧ (s.writeWord a v).readByte (a + 1#16) = some b1 ∧
      ((Config.byteOrder = .little ∧ b0.toNat = v.toNat % 256 ∧ b1.toNat = v.toNat / 256) ∨
       (Config.byteOrder = .big ∧ b0.toNat = v.toNat / 256 ∧ b1.toNat = v.toNat % 256))

/-- Two bytes written at an address and the next read as the word they make (R67; log 7). -/
def Obligations.TwoBytesMakeAWord : Prop :=
  ∀ (s : State) (a : Word) (b0 b1 : Byte),
    ∃ v, ((s.writeByte a b0).writeByte (a + 1#16) b1).readWord a = some v ∧
      ((Config.byteOrder = .little ∧ v.toNat = b1.toNat * 256 + b0.toNat) ∨
       (Config.byteOrder = .big ∧ v.toNat = b0.toNat * 256 + b1.toNat))

/-- Word accesses are always aligned (R52): the effective address is even, bit 0 of the base is dropped before
twice the offset is added, and a base with bit 0 set is no error: no store stops for it, and no load whose bytes
hold a value. -/
def Obligations.WordAccessesAreAligned : Prop :=
  ∀ (s : State) (rd rs : RegNum) (imm4 : BitVec 4),
    (wordAddr s rs imm4).toNat % 2 = 0 ∧
    (wordAddr s rs imm4).toNat = ((s.reg rs).toNat / 2 * 2 + 2 * (immLs s imm4).toNat) % 65536 ∧
    (s.uc = false → ∃ t, exec (.store rd rs imm4) s = .next t) ∧
    (s.uc = false → s.readByte (wordAddr s rs imm4) ≠ none → s.readByte (wordAddr s rs imm4 + 1#16) ≠ none →
      ∃ t, exec (.load rd rs imm4) s = .next t)

/-- Byte accesses need no alignment (R53): `loadb` and `storeb` use `x[rs] + off` as it is. -/
def Obligations.ByteAccessesUseTheAddressAsItIs : Prop :=
  ∀ (s : State) (rd rs : RegNum) (imm4 : BitVec 4), s.uc = false →
    (∃ t, exec (.storeb rd rs imm4) s = .next t ∧
      t.readByte (s.reg rs + immLs s imm4) = some (BitVec.ofNat 8 (s.reg rd).toNat) ∧
      SameMemoryButByte (s.reg rs + immLs s imm4) s t) ∧
    (∀ b, s.readByte (s.reg rs + immLs s imm4) = some b →
      ∃ t, exec (.loadb rd rs imm4) s = .next t ∧ (t.reg rd).toInt = b.toInt)

/-! ## Immediates -/

/-- Under an `imm` prefix the immediate is `IMM12` over the low four bits of the instruction's own field (R91; which
four bits is the spec's decision D7, log 22). -/
def Obligations.ImmediatesUnderAPrefix : Prop :=
  ∀ (s : State) (imm4 : BitVec 4) (imm6 : BitVec 6) (imm8 : BitVec 8) (imm11 : BitVec 11), s.immv = true →
    (immLs s imm4).toNat = 16 * s.imm12.toNat + imm4.toNat ∧
    (immRi6 s imm6).toNat = 16 * s.imm12.toNat + imm6.toNat % 16 ∧
    (immRi8 s imm8).toNat = 16 * s.imm12.toNat + imm8.toNat % 16 ∧
    (immI11 s imm11).toNat = 16 * s.imm12.toNat + imm11.toNat % 16

/-- Without a prefix the ls immediate is unsigned and the others are signed (R92). -/
def Obligations.NativeImmediates : Prop :=
  ∀ (s : State) (imm4 : BitVec 4) (imm6 : BitVec 6) (imm8 : BitVec 8) (imm11 : BitVec 11), s.immv = false →
    (immLs s imm4).toNat = imm4.toNat ∧ (immRi6 s imm6).toInt = imm6.toInt ∧ (immRi8 s imm8).toInt = imm8.toInt ∧
    (immI11 s imm11).toInt = imm11.toInt

/-! ## Instructions: system -/

/-- `nop` only advances (R125); an `imm` stores its 12 bits and sets `IMMV` (R131). Both run wherever no prefix is
pending. -/
def Obligations.NopAndImm : Prop :=
  ∀ (s : State) (v : BitVec 12), NoPrefix s →
    (∃ t, exec .nop s = .next t ∧ AdvancesOnly s t) ∧
    (∃ t, exec (.imm v) s = .next t ∧ t.imm12 = v ∧ t.immv = true ∧ t.c = s.c ∧ t.uc = s.uc ∧ t.skip = s.skip ∧
      t.halt = s.halt ∧ t.error = s.error ∧ t.csrFile = s.csrFile ∧ (∀ a, t.instrAt a = s.instrAt a) ∧
      t.pc = s.pc + 1#16 ∧ SameRegs s t ∧ SameMemory s t)

/-- `halt` and `error` (R127, R128) assert their line and change nothing else, and the core then spins for any
number of steps; that the pc stays is the spec's decision D18 (logs 16, 35). -/
def Obligations.HaltAndErrorStopInPlace : Prop :=
  ∀ s : State, NoPrefix s →
    (∃ t, exec .halt s = .next t ∧ t = { s with halt := true } ∧ ∀ k, runFor k t = .next t) ∧
    (∃ t, exec .error s = .next t ∧ t = { s with error := true } ∧ ∀ k, runFor k t = .next t)

/-- `rcsr` gives `rd` the free value `CsrRead` and may change the CSR file; `wcsr` takes the CSR file to a free state;
neither changes anything else (R129, R130; the model's choice, logs 10 and 11). -/
def Obligations.CsrInstructions : Prop :=
  ∀ (s : State) (rd : RegNum) (n : CsrNum), NoPrefix s →
    (∃ t, exec (.rcsr rd n) s = .next t ∧ t.reg rd = Config.csrRead s.csrFile n ∧ SameRegsBut rd s t ∧
      t.csrFile = Config.csrReadNext s.csrFile n ∧ t.pc = s.pc + 1#16 ∧ PrefixEnded t ∧ SameMemory s t ∧
      SameLines s t ∧ t.skip = s.skip) ∧
    (∃ t, exec (.wcsr n rd) s = .next t ∧ SameRegs s t ∧ t.csrFile = Config.csrWrite s.csrFile n (s.reg rd) ∧
      t.pc = s.pc + 1#16 ∧ PrefixEnded t ∧ SameMemory s t ∧ SameLines s t ∧ t.skip = s.skip)

/-! ## Instructions: moves and branches -/

/-- `move` (R140, R141): the register form wherever no prefix is pending, the immediate form unless a carry is. -/
def Obligations.MoveResults : Prop :=
  ∀ (s : State) (rd rs : RegNum) (imm8 : BitVec 8),
    (NoPrefix s → ∃ t, exec (.moveRr rd rs) s = .next t ∧ WritesOnly rd (s.reg rs) s t) ∧
    (s.uc = false → ∃ t, exec (.moveRi8 rd imm8) s = .next t ∧ WritesOnly rd (immRi8 s imm8) s t)

/-- `loadc` (R142, R143) reads the open constant memory at the address its operand gives (R144, D17, log 8). -/
def Obligations.LoadcResults : Prop :=
  ∀ (s : State) (rd rs : RegNum) (imm8 : BitVec 8),
    (NoPrefix s → ∃ t, exec (.loadcRr rd rs) s = .next t ∧ WritesOnly rd (Config.constMem (s.reg rs)) s t) ∧
    (s.uc = false → ∃ t, exec (.loadcRi8 rd imm8) s = .next t ∧ WritesOnly rd (Config.constMem (immRi8 s imm8)) s t)

/-- `jump` (R150, R151): absolute from a register, or relative to the next instruction (R152, D4, log 20). -/
def Obligations.JumpResults : Prop :=
  ∀ (s : State) (rd : RegNum) (imm11 : BitVec 11),
    (NoPrefix s → ∃ t, exec (.jumpRr rd) s = .next t ∧ JumpsOnly (s.reg rd) s t) ∧
    (s.uc = false → ∃ t, exec (.jumpI11 imm11) s = .next t ∧ JumpsOnly (s.pc + 1#16 + immI11 s imm11) s t)

/-- `call` (R153, R154) does as `jump`, and `r0` receives the address of the next instruction (D4, log 20); `call r0`
goes to the old `r0` (D24, log 29). -/
def Obligations.CallResults : Prop :=
  ∀ (s : State) (rd : RegNum) (imm11 : BitVec 11),
    (NoPrefix s → ∃ t, exec (.callRr rd) s = .next t ∧ CallsOnly (s.reg rd) s t) ∧
    (s.uc = false → ∃ t, exec (.callI11 imm11) s = .next t ∧ CallsOnly (s.pc + 1#16 + immI11 s imm11) s t)

/-- `jump r0` (the pseudo-instruction `return`) resumes after the `call`, whatever ran in between, if `r0` is as the
`call` left it (R103, R152, R155; D4, log 20). -/
def Obligations.ReturnResumesAfterTheCall : Prop :=
  ∀ (s u v : State) (i : Instr), ((∃ rd, i = .callRr rd) ∨ ∃ imm11, i = .callI11 imm11) → exec i s = .next u →
    NoPrefix v → v.reg 0#4 = u.reg 0#4 → ∃ t, exec (.jumpRr 0#4) v = .next t ∧ JumpsOnly (s.pc + 1#16) v t

/-! ## Instructions: loads and stores -/

/-- `load` (R160, R161) reads the two bytes at the effective address; a byte that holds no value stops it (log 6). -/
def Obligations.LoadResult : Prop :=
  ∀ (s : State) (rd rs : RegNum) (imm4 : BitVec 4), s.uc = false →
    (∀ b0 b1, s.readByte (wordAddr s rs imm4) = some b0 → s.readByte (wordAddr s rs imm4 + 1#16) = some b1 →
      ∃ t v, exec (.load rd rs imm4) s = .next t ∧ WritesOnly rd v s t ∧
        ((Config.byteOrder = .little ∧ v.toNat = b1.toNat * 256 + b0.toNat) ∨
         (Config.byteOrder = .big ∧ v.toNat = b0.toNat * 256 + b1.toNat))) ∧
    ((s.readByte (wordAddr s rs imm4) = none ∨ s.readByte (wordAddr s rs imm4 + 1#16) = none) →
      exec (.load rd rs imm4) s = .fault .noByte)

/-- `store` (R160, R162): the word at the effective address is `x[rd]`; no other byte and no register changes. -/
def Obligations.StoreResult : Prop :=
  ∀ (s : State) (rd rs : RegNum) (imm4 : BitVec 4), s.uc = false →
    ∃ t, exec (.store rd rs imm4) s = .next t ∧ t.readWord (wordAddr s rs imm4) = some (s.reg rd) ∧
      SameMemoryButWord (wordAddr s rs imm4) s t ∧ SameRegs s t ∧ t.pc = s.pc + 1#16 ∧ PrefixEnded t ∧
      SameControl s t

/-- `loadb` (R160, R163): `rd` receives the byte sign extended; a byte that holds no value stops it (log 6). -/
def Obligations.LoadbResult : Prop :=
  ∀ (s : State) (rd rs : RegNum) (imm4 : BitVec 4), s.uc = false →
    (∀ b, s.readByte (byteAddr s rs imm4) = some b →
      ∃ t, exec (.loadb rd rs imm4) s = .next t ∧ WritesOnly rd (BitVec.ofInt 16 b.toInt) s t) ∧
    (s.readByte (byteAddr s rs imm4) = none → exec (.loadb rd rs imm4) s = .fault .noByte)

/-- `storeb` (R160, R164): the byte at the effective address is the low byte of `x[rd]`; the other byte of the word,
all other bytes and all registers are unchanged. -/
def Obligations.StorebResult : Prop :=
  ∀ (s : State) (rd rs : RegNum) (imm4 : BitVec 4), s.uc = false →
    ∃ t b, exec (.storeb rd rs imm4) s = .next t ∧ t.readByte (byteAddr s rs imm4) = some b ∧
      b.toNat = (s.reg rd).toNat % 256 ∧ SameMemoryButByte (byteAddr s rs imm4) s t ∧ SameRegs s t ∧
      t.pc = s.pc + 1#16 ∧ PrefixEnded t ∧ SameControl s t

/-- A `load` returns the word that the latest `store` to its address stored, under either byte order: the two may name
the address by different operands, and any steps may run in between as long as none of them stores to one of the two
bytes (R62, R161, R162; one agent in program order is the spec's decision D22, log 28). -/
def Obligations.LoadReturnsTheLatestStore : Prop :=
  ∀ (s u v : State) (k : Nat) (rd rs rd' rs' : RegNum) (imm4 imm4' : BitVec 4),
    exec (.store rd rs imm4) s = .next u → runFor k u = .next v →
    (∀ j w, j < k → runFor j u = .next w →
      ¬ StoresAt (wordAddr s rs imm4) w ∧ ¬ StoresAt (wordAddr s rs imm4 + 1#16) w) →
    v.uc = false → wordAddr v rs' imm4' = wordAddr s rs imm4 →
    ∃ t, exec (.load rd' rs' imm4') v = .next t ∧ WritesOnly rd' (s.reg rd) v t

/-! ## Instructions: arithmetic -/

/-- `add` and `sub` (R170 to R175) write the low 16 bits of the mathematical result, carry in included, and end the
prefix state; the register form runs unless an `imm` is pending, the immediate form always. -/
def Obligations.AddAndSubResults : Prop :=
  ∀ (s : State) (rd rs : RegNum) (imm6 : BitVec 6) (cin : Nat), cin = (if s.uc = true ∧ s.c = true then 1 else 0) →
    (s.immv = false → ∃ t, exec (.addRr rd rs) s = .next t ∧
      WritesOnly rd (BitVec.ofNat 16 ((s.reg rd).toNat + (s.reg rs).toNat + cin)) s t) ∧
    (∃ t, exec (.addRi6 rd imm6) s = .next t ∧
      WritesOnly rd (BitVec.ofNat 16 ((s.reg rd).toNat + (immRi6 s imm6).toNat + cin)) s t) ∧
    (s.immv = false → ∃ t, exec (.subRr rd rs) s = .next t ∧
      WritesOnly rd (BitVec.ofInt 16 ((s.reg rd).toNat - (s.reg rs).toNat - cin)) s t) ∧
    (∃ t, exec (.subRi6 rd imm6) s = .next t ∧
      WritesOnly rd (BitVec.ofInt 16 ((s.reg rd).toNat - (immRi6 s imm6).toNat - cin)) s t)

/-- `addc` and `subc` (R176 to R179) write the same results, set `UC`, and write `C` with the carry out of the sum or
the borrow of the difference (R180; the borrow sense is the spec's decision D10, log 25). -/
def Obligations.AddcAndSubcResults : Prop :=
  ∀ (s : State) (rd rs : RegNum) (imm6 : BitVec 6) (cin : Nat), cin = (if s.uc = true ∧ s.c = true then 1 else 0) →
    (s.immv = false → ∃ t, exec (.addcRr rd rs) s = .next t ∧
      WritesWithCarry rd (BitVec.ofNat 16 ((s.reg rd).toNat + (s.reg rs).toNat + cin))
        (decide (65535 < (s.reg rd).toNat + (s.reg rs).toNat + cin)) s t) ∧
    (∃ t, exec (.addcRi6 rd imm6) s = .next t ∧
      WritesWithCarry rd (BitVec.ofNat 16 ((s.reg rd).toNat + (immRi6 s imm6).toNat + cin))
        (decide (65535 < (s.reg rd).toNat + (immRi6 s imm6).toNat + cin)) s t) ∧
    (s.immv = false → ∃ t, exec (.subcRr rd rs) s = .next t ∧
      WritesWithCarry rd (BitVec.ofInt 16 ((s.reg rd).toNat - (s.reg rs).toNat - cin))
        (decide ((s.reg rd).toNat < (s.reg rs).toNat + cin)) s t) ∧
    (∃ t, exec (.subcRi6 rd imm6) s = .next t ∧
      WritesWithCarry rd (BitVec.ofInt 16 ((s.reg rd).toNat - (immRi6 s imm6).toNat - cin))
        (decide ((s.reg rd).toNat < (immRi6 s imm6).toNat + cin)) s t)

/-- The chain rule of R181 for addition, for numbers of any length: `addc` on all word pairs but the last and `add` on
the last, least significant first, leaves in the destinations the sum modulo 2^(16 k), and no carry state. The
destinations are distinct and no source is the destination of an earlier pair; a pair may name one register twice,
which doubles the number. -/
def Obligations.AddcChainAddsMultiWordNumbers : Prop :=
  ∀ (ps : List (RegNum × RegNum)) (s : State), ps ≠ [] → (ps.map Prod.fst).Nodup →
    ps.Pairwise (fun earlier later => later.2 ≠ earlier.1) → NoPrefix s →
    ∃ t, execAll (chain .addcRr .addRr ps) s = .next t ∧
      wordsValue t (ps.map Prod.fst) =
        (wordsValue s (ps.map Prod.fst) + wordsValue s (ps.map Prod.snd)) % 65536 ^ ps.length ∧
      (∀ r, r ∉ ps.map Prod.fst → t.reg r = s.reg r) ∧ PrefixEnded t ∧ SameMemory s t

/-- The chain rule of R181 for subtraction: `subc` on all word pairs but the last and `sub` on the last leaves the
difference modulo 2^(16 k) (the borrow sense is the spec's decision D10, log 25). The destinations are distinct and no
source is the destination of an earlier pair; a pair may name one register twice. -/
def Obligations.SubcChainSubtractsMultiWordNumbers : Prop :=
  ∀ (ps : List (RegNum × RegNum)) (s : State), ps ≠ [] → (ps.map Prod.fst).Nodup →
    ps.Pairwise (fun earlier later => later.2 ≠ earlier.1) → NoPrefix s →
    ∃ t, execAll (chain .subcRr .subRr ps) s = .next t ∧
      ((wordsValue t (ps.map Prod.fst) : Nat) : Int) =
        ((wordsValue s (ps.map Prod.fst) : Int) - (wordsValue s (ps.map Prod.snd) : Int)) % (65536 ^ ps.length : Nat) ∧
      (∀ r, r ∉ ps.map Prod.fst → t.reg r = s.reg r) ∧ PrefixEnded t ∧ SameMemory s t

/-! ## Instructions: logic and shifts -/

/-- `xor`, `and`, `or` in both forms (R190 to R196). -/
def Obligations.LogicResults : Prop :=
  ∀ (s : State) (rd rs : RegNum) (imm6 : BitVec 6),
    (NoPrefix s →
      (∃ t, exec (.xorRr rd rs) s = .next t ∧ WritesOnly rd (s.reg rd ^^^ s.reg rs) s t) ∧
      (∃ t, exec (.andRr rd rs) s = .next t ∧ WritesOnly rd (s.reg rd &&& s.reg rs) s t) ∧
      (∃ t, exec (.orRr rd rs) s = .next t ∧ WritesOnly rd (s.reg rd ||| s.reg rs) s t)) ∧
    (s.uc = false →
      (∃ t, exec (.xorRi6 rd imm6) s = .next t ∧ WritesOnly rd (s.reg rd ^^^ immRi6 s imm6) s t) ∧
      (∃ t, exec (.andRi6 rd imm6) s = .next t ∧ WritesOnly rd (s.reg rd &&& immRi6 s imm6) s t) ∧
      (∃ t, exec (.orRi6 rd imm6) s = .next t ∧ WritesOnly rd (s.reg rd ||| immRi6 s imm6) s t))

/-- `shl`, `shr`, `asr` in register form (R197, R198, R200, R202): by an amount of at most 15 the product, the
quotient, the signed quotient rounded down; by 16 or more the free value `ShiftOOB` (D13, log 9). -/
def Obligations.ShiftRegisterResults : Prop :=
  ∀ (s : State) (rd rs : RegNum) (n : Nat), NoPrefix s → n = (s.reg rs).toNat →
    (∃ t, exec (.shlRr rd rs) s = .next t ∧ WritesOnly rd (if n ≤ 15 then
      BitVec.ofNat 16 ((s.reg rd).toNat * 2 ^ n) else Config.shiftOOB .shl (s.reg rd) (s.reg rs)) s t) ∧
    (∃ t, exec (.shrRr rd rs) s = .next t ∧ WritesOnly rd (if n ≤ 15 then
      BitVec.ofNat 16 ((s.reg rd).toNat / 2 ^ n) else Config.shiftOOB .shr (s.reg rd) (s.reg rs)) s t) ∧
    (∃ t, exec (.asrRr rd rs) s = .next t ∧ WritesOnly rd (if n ≤ 15 then
      BitVec.ofInt 16 ((s.reg rd).toInt / 2 ^ n) else Config.shiftOOB .asr (s.reg rd) (s.reg rs)) s t)

/-- `shl`, `shr`, `asr` in immediate form (R197, R199, R201, R203), the amount being the effective immediate (D13,
log 9). -/
def Obligations.ShiftImmediateResults : Prop :=
  ∀ (s : State) (rd : RegNum) (imm6 : BitVec 6) (n : Nat), s.uc = false → n = (immRi6 s imm6).toNat →
    (∃ t, exec (.shlRi6 rd imm6) s = .next t ∧ WritesOnly rd (if n ≤ 15 then
      BitVec.ofNat 16 ((s.reg rd).toNat * 2 ^ n) else Config.shiftOOB .shl (s.reg rd) (immRi6 s imm6)) s t) ∧
    (∃ t, exec (.shrRi6 rd imm6) s = .next t ∧ WritesOnly rd (if n ≤ 15 then
      BitVec.ofNat 16 ((s.reg rd).toNat / 2 ^ n) else Config.shiftOOB .shr (s.reg rd) (immRi6 s imm6)) s t) ∧
    (∃ t, exec (.asrRi6 rd imm6) s = .next t ∧ WritesOnly rd (if n ≤ 15 then
      BitVec.ofInt 16 ((s.reg rd).toInt / 2 ^ n) else Config.shiftOOB .asr (s.reg rd) (immRi6 s imm6)) s t)

/-! ## Instructions: skips -/

/-- The six `if.cc` in register form (R210 to R222): equality, the exact signed and the exact unsigned comparisons;
a false condition sets `SKIP`. -/
def Obligations.IfRegisterResults : Prop :=
  ∀ (s : State) (rd rs : RegNum), NoPrefix s →
    (∃ t, exec (.ifEqRr rd rs) s = .next t ∧ TestsOnly (s.reg rd = s.reg rs) s t) ∧
    (∃ t, exec (.ifNeRr rd rs) s = .next t ∧ TestsOnly (s.reg rd ≠ s.reg rs) s t) ∧
    (∃ t, exec (.ifLtRr rd rs) s = .next t ∧ TestsOnly ((s.reg rd).toInt < (s.reg rs).toInt) s t) ∧
    (∃ t, exec (.ifGeRr rd rs) s = .next t ∧ TestsOnly ((s.reg rs).toInt ≤ (s.reg rd).toInt) s t) ∧
    (∃ t, exec (.ifUltRr rd rs) s = .next t ∧ TestsOnly ((s.reg rd).toNat < (s.reg rs).toNat) s t) ∧
    (∃ t, exec (.ifUgeRr rd rs) s = .next t ∧ TestsOnly ((s.reg rs).toNat ≤ (s.reg rd).toNat) s t)

/-- The six `if.cc` in immediate form (R210 to R223); a negative native immediate is sign extended also for the
unsigned comparisons (the spec's decision D25, log 30). -/
def Obligations.IfImmediateResults : Prop :=
  ∀ (s : State) (rd : RegNum) (imm6 : BitVec 6), s.uc = false →
    (∃ t, exec (.ifEqRi6 rd imm6) s = .next t ∧ TestsOnly (s.reg rd = immRi6 s imm6) s t) ∧
    (∃ t, exec (.ifNeRi6 rd imm6) s = .next t ∧ TestsOnly (s.reg rd ≠ immRi6 s imm6) s t) ∧
    (∃ t, exec (.ifLtRi6 rd imm6) s = .next t ∧ TestsOnly ((s.reg rd).toInt < (immRi6 s imm6).toInt) s t) ∧
    (∃ t, exec (.ifGeRi6 rd imm6) s = .next t ∧ TestsOnly ((immRi6 s imm6).toInt ≤ (s.reg rd).toInt) s t) ∧
    (∃ t, exec (.ifUltRi6 rd imm6) s = .next t ∧ TestsOnly ((s.reg rd).toNat < (immRi6 s imm6).toNat) s t) ∧
    (∃ t, exec (.ifUgeRi6 rd imm6) s = .next t ∧ TestsOnly ((immRi6 s imm6).toNat ≤ (s.reg rd).toNat) s t)

/-- A skip passes a run of prefix instructions of any length whole, and one regular instruction, in one step each,
and then ends; nothing but the pc and `SKIP` changes (R29, R121, R224). -/
def Obligations.SkipPassesPrefixesAndOneInstruction : Prop :=
  ∀ (ws : List Word) (w : Word) (s : State), s.stopped = false → s.skip = true →
    (∀ k (h : k < ws.length), s.instrAt (s.pc + BitVec.ofNat 16 k) = some ws[k]) →
    (∀ v ∈ ws, (decode v).isPrefix = true) →
    s.instrAt (s.pc + BitVec.ofNat 16 ws.length) = some w → (decode w).isPrefix = false →
    (decode w).isReserved = false →
    runFor (ws.length + 1) s = .next { s with pc := s.pc + BitVec.ofNat 16 (ws.length + 1), skip := false }

/-! ## Idioms the spec derives from the rules -/

/-- `imm` and then `move rd, imm8` load any 16-bit constant, whatever the upper four bits of the second field (R91,
R141; log 22). -/
def Obligations.ImmThenMoveLoadsAnyConstant : Prop :=
  ∀ (s : State) (rd : RegNum) (v : Word) (imm8 : BitVec 8), NoPrefix s → imm8.toNat % 16 = v.toNat % 16 →
    ∃ t, execAll [.imm (BitVec.ofNat 12 (v.toNat / 16)), .moveRi8 rd imm8] s = .next t ∧ t.reg rd = v ∧
      SameRegsBut rd s t ∧ t.pc = s.pc + 2#16 ∧ PrefixEnded t

/-- The pseudo-instructions `not rd`, `neg rd` and `sxt rd` complement, negate and sign extend the low byte of `rd`
(R103, R192, R203). -/
def Obligations.NotNegSxtIdioms : Prop :=
  ∀ (s : State) (rd : RegNum), NoPrefix s →
    (∃ t, execAll [.xorRi6 rd (-1)] s = .next t ∧ t.reg rd = ~~~ (s.reg rd) ∧ SameRegsBut rd s t) ∧
    (∃ t, execAll [.xorRi6 rd (-1), .addRi6 rd 1] s = .next t ∧ t.reg rd = - (s.reg rd) ∧ SameRegsBut rd s t) ∧
    (∃ t, execAll [.shlRi6 rd 8, .asrRi6 rd 8] s = .next t ∧
      (t.reg rd).toInt = (BitVec.ofNat 8 (s.reg rd).toNat).toInt ∧ SameRegsBut rd s t)

/-- `if.cc` and then `jump label`: the two instructions jump exactly if the condition is true, and otherwise go on
behind the jump (R224, R211, R151; shown for `if.eq`; log 20). -/
def Obligations.IfThenJumpIsAConditionalBranch : Prop :=
  ∀ (s : State) (w1 w2 : Word) (rd rs : RegNum) (imm11 : BitVec 11), s.stopped = false → s.skip = false → NoPrefix s →
    s.instrAt s.pc = some w1 → decode w1 = .ifEqRr rd rs → s.instrAt (s.pc + 1#16) = some w2 →
    decode w2 = .jumpI11 imm11 →
    ∃ t, runFor 2 s = .next t ∧ t.skip = false ∧ SameRegs s t ∧ SameMemory s t ∧
      t.pc = (if s.reg rd = s.reg rs then s.pc + 2#16 + imm11.signExtend 16 else s.pc + 2#16)

/-! ## The prefix instructions -/

/-- The prefix instructions are exactly `imm` (i12), `addc` and `subc` (rr and ri6) (R124): the words that decode to one
are those of these five rows of the opcode table, and skipping a word goes on behind it exactly if it is one. -/
def Obligations.PrefixInstructionsAreExactlyImmAddcSubc : Prop :=
  ∀ w : Word,
    ((decode w).isPrefix = true ↔ IsPrefixWord w) ∧
    (∀ s : State, s.stopped = false → s.skip = true → s.instrAt s.pc = some w → (decode w).isReserved = false →
      ∃ t, step s = .next t ∧ (t.skip = true ↔ IsPrefixWord w))
end

