-- ==== Sys2Proof/Laws/Encoding.lean ====
section
/-! SUPPORT. The words the format builders make (R83 to R90): each field reads back as it was written, and
the low bits are those of the opcode table's row. -/

namespace Sys2Proof

/-! ### rr -/

@[simp] theorem rrWord_fmt (op : BitVec 5) (rd rs : RegNum) : fmtField (rrWord op rd rs) = 0b00#2 := by
  apply BitVec.eq_of_getLsbD_eq
  intro i h
  simp only [fmtField, rrWord, BitVec.getLsbD_append, BitVec.getLsbD_extractLsb']
  interval_cases i <;> simp

@[simp] theorem rrWord_op (op : BitVec 5) (rd rs : RegNum) : opField (rrWord op rd rs) = op := by
  apply BitVec.eq_of_getLsbD_eq
  intro i h
  simp only [opField, rrWord, BitVec.getLsbD_append, BitVec.getLsbD_extractLsb']
  interval_cases i <;> simp

@[simp] theorem rrWord_rd (op : BitVec 5) (rd rs : RegNum) : rdField (rrWord op rd rs) = rd := by
  apply BitVec.eq_of_getLsbD_eq
  intro i h
  simp only [rdField, rrWord, BitVec.getLsbD_append, BitVec.getLsbD_extractLsb']
  interval_cases i <;> simp

@[simp] theorem rrWord_rs (op : BitVec 5) (rd rs : RegNum) : rsField (rrWord op rd rs) = rs := by
  apply BitVec.eq_of_getLsbD_eq
  intro i h
  simp only [rsField, rrWord, BitVec.getLsbD_append, BitVec.getLsbD_extractLsb']
  interval_cases i <;> simp

@[simp] theorem rrWord_bit7 (op : BitVec 5) (rd rs : RegNum) : (rrWord op rd rs)[7] = false := by
  rw [← BitVec.getLsbD_eq_getElem]
  simp only [rrWord, BitVec.getLsbD_append]
  simp

/-- The masked low bits of an rr word (R106). -/
theorem rrWord_masked (op : BitVec 5) (rd rs : RegNum) : rrWord op rd rs &&& 0x00FF#16 = op.zeroExtend 16 <<< 2 := by
  apply BitVec.eq_of_getLsbD_eq
  intro i h
  simp only [rrWord, BitVec.getLsbD_append, BitVec.getLsbD_and, BitVec.getLsbD_shiftLeft,
    BitVec.getLsbD_setWidth]
  interval_cases i <;> simp

/-! ### ri6 -/

@[simp] theorem ri6Word_fmt (func : BitVec 4) (rd : RegNum) (imm6 : BitVec 6) : fmtField (ri6Word func rd imm6) = 0b11#2 := by
  apply BitVec.eq_of_getLsbD_eq
  intro i h
  simp only [fmtField, ri6Word, BitVec.getLsbD_append, BitVec.getLsbD_extractLsb']
  interval_cases i <;> simp

@[simp] theorem ri6Word_func (func : BitVec 4) (rd : RegNum) (imm6 : BitVec 6) : funcField (ri6Word func rd imm6) = func := by
  apply BitVec.eq_of_getLsbD_eq
  intro i h
  simp only [funcField, ri6Word, BitVec.getLsbD_append, BitVec.getLsbD_extractLsb']
  interval_cases i <;> simp

@[simp] theorem ri6Word_rd (func : BitVec 4) (rd : RegNum) (imm6 : BitVec 6) : rdField (ri6Word func rd imm6) = rd := by
  apply BitVec.eq_of_getLsbD_eq
  intro i h
  simp only [rdField, ri6Word, BitVec.getLsbD_append, BitVec.getLsbD_extractLsb']
  interval_cases i <;> simp

@[simp] theorem ri6Word_imm6 (func : BitVec 4) (rd : RegNum) (imm6 : BitVec 6) : imm6Field (ri6Word func rd imm6) = imm6 := by
  apply BitVec.eq_of_getLsbD_eq
  intro i h
  simp only [imm6Field, ri6Word, BitVec.getLsbD_append, BitVec.getLsbD_extractLsb']
  interval_cases i <;> simp

/-- The masked low bits of an ri6 word (R106). -/
theorem ri6Word_masked (func : BitVec 4) (rd : RegNum) (imm6 : BitVec 6) : ri6Word func rd imm6 &&& 0x003F#16 = (func.zeroExtend 16 <<< 2) ||| 3#16 := by
  apply BitVec.eq_of_getLsbD_eq
  intro i h
  simp only [ri6Word, BitVec.getLsbD_append, BitVec.getLsbD_and, BitVec.getLsbD_or, BitVec.getLsbD_shiftLeft,
    BitVec.getLsbD_setWidth]
  interval_cases i <;> simp

/-! ### ri8 -/

@[simp] theorem ri8Word_fmt (op : BitVec 1) (rd : RegNum) (imm8 : BitVec 8) : fmtField (ri8Word op rd imm8) = 0b01#2 := by
  apply BitVec.eq_of_getLsbD_eq
  intro i h
  simp only [fmtField, ri8Word, BitVec.getLsbD_append, BitVec.getLsbD_extractLsb']
  interval_cases i <;> simp

@[simp] theorem ri8Word_rd (op : BitVec 1) (rd : RegNum) (imm8 : BitVec 8) : rdField (ri8Word op rd imm8) = rd := by
  apply BitVec.eq_of_getLsbD_eq
  intro i h
  simp only [rdField, ri8Word, BitVec.getLsbD_append, BitVec.getLsbD_extractLsb']
  interval_cases i <;> simp

@[simp] theorem ri8Word_imm8 (op : BitVec 1) (rd : RegNum) (imm8 : BitVec 8) : imm8Field (ri8Word op rd imm8) = imm8 := by
  apply BitVec.eq_of_getLsbD_eq
  intro i h
  simp only [imm8Field, ri8Word, BitVec.getLsbD_append, BitVec.getLsbD_extractLsb']
  interval_cases i <;> simp

@[simp] theorem ri8Word_bit2 (op : BitVec 1) (rd : RegNum) (imm8 : BitVec 8) : (ri8Word op rd imm8)[2] = false := by
  rw [← BitVec.getLsbD_eq_getElem]
  simp only [ri8Word, BitVec.getLsbD_append]
  simp

@[simp] theorem ri8Word_bit3 (op : BitVec 1) (rd : RegNum) (imm8 : BitVec 8) : (ri8Word op rd imm8)[3] = op[0] := by
  rw [← BitVec.getLsbD_eq_getElem]
  simp only [ri8Word, BitVec.getLsbD_append]
  simp

/-- The masked low bits of an ri8 word (R106). -/
theorem ri8Word_masked (op : BitVec 1) (rd : RegNum) (imm8 : BitVec 8) : ri8Word op rd imm8 &&& 0x000F#16 = (op.zeroExtend 16 <<< 3) ||| 1#16 := by
  apply BitVec.eq_of_getLsbD_eq
  intro i h
  simp only [ri8Word, BitVec.getLsbD_append, BitVec.getLsbD_and, BitVec.getLsbD_or, BitVec.getLsbD_shiftLeft,
    BitVec.getLsbD_setWidth]
  interval_cases i <;> simp

/-! ### ls -/

@[simp] theorem lsWord_fmt (op : BitVec 2) (rd rs : RegNum) (imm4 : BitVec 4) : fmtField (lsWord op rd rs imm4) = 0b10#2 := by
  apply BitVec.eq_of_getLsbD_eq
  intro i h
  simp only [fmtField, lsWord, BitVec.getLsbD_append, BitVec.getLsbD_extractLsb']
  interval_cases i <;> simp

@[simp] theorem lsWord_op (op : BitVec 2) (rd rs : RegNum) (imm4 : BitVec 4) : lsOpField (lsWord op rd rs imm4) = op := by
  apply BitVec.eq_of_getLsbD_eq
  intro i h
  simp only [lsOpField, lsWord, BitVec.getLsbD_append, BitVec.getLsbD_extractLsb']
  interval_cases i <;> simp

@[simp] theorem lsWord_rd (op : BitVec 2) (rd rs : RegNum) (imm4 : BitVec 4) : rdField (lsWord op rd rs imm4) = rd := by
  apply BitVec.eq_of_getLsbD_eq
  intro i h
  simp only [rdField, lsWord, BitVec.getLsbD_append, BitVec.getLsbD_extractLsb']
  interval_cases i <;> simp

@[simp] theorem lsWord_rs (op : BitVec 2) (rd rs : RegNum) (imm4 : BitVec 4) : rsField (lsWord op rd rs imm4) = rs := by
  apply BitVec.eq_of_getLsbD_eq
  intro i h
  simp only [rsField, lsWord, BitVec.getLsbD_append, BitVec.getLsbD_extractLsb']
  interval_cases i <;> simp

@[simp] theorem lsWord_imm4 (op : BitVec 2) (rd rs : RegNum) (imm4 : BitVec 4) : imm4Field (lsWord op rd rs imm4) = imm4 := by
  apply BitVec.eq_of_getLsbD_eq
  intro i h
  simp only [imm4Field, lsWord, BitVec.getLsbD_append, BitVec.getLsbD_extractLsb']
  interval_cases i <;> simp

/-- The masked low bits of an ls word (R106). -/
theorem lsWord_masked (op : BitVec 2) (rd rs : RegNum) (imm4 : BitVec 4) : lsWord op rd rs imm4 &&& 0x000F#16 = (op.zeroExtend 16 <<< 2) ||| 2#16 := by
  apply BitVec.eq_of_getLsbD_eq
  intro i h
  simp only [lsWord, BitVec.getLsbD_append, BitVec.getLsbD_and, BitVec.getLsbD_or, BitVec.getLsbD_shiftLeft,
    BitVec.getLsbD_setWidth]
  interval_cases i <;> simp

/-! ### i11 -/

@[simp] theorem i11Word_fmt (op : BitVec 2) (imm11 : BitVec 11) : fmtField (i11Word op imm11) = 0b01#2 := by
  apply BitVec.eq_of_getLsbD_eq
  intro i h
  simp only [fmtField, i11Word, BitVec.getLsbD_append, BitVec.getLsbD_extractLsb']
  interval_cases i <;> simp

@[simp] theorem i11Word_imm11 (op : BitVec 2) (imm11 : BitVec 11) : imm11Field (i11Word op imm11) = imm11 := by
  apply BitVec.eq_of_getLsbD_eq
  intro i h
  simp only [imm11Field, i11Word, BitVec.getLsbD_append, BitVec.getLsbD_extractLsb']
  interval_cases i <;> simp

@[simp] theorem i11Word_bit2 (op : BitVec 2) (imm11 : BitVec 11) : (i11Word op imm11)[2] = true := by
  rw [← BitVec.getLsbD_eq_getElem]
  simp only [i11Word, BitVec.getLsbD_append]
  simp

@[simp] theorem i11Word_bit3 (op : BitVec 2) (imm11 : BitVec 11) : (i11Word op imm11)[3] = op[0] := by
  rw [← BitVec.getLsbD_eq_getElem]
  simp only [i11Word, BitVec.getLsbD_append]
  simp

@[simp] theorem i11Word_bit4 (op : BitVec 2) (imm11 : BitVec 11) : (i11Word op imm11)[4] = op[1] := by
  rw [← BitVec.getLsbD_eq_getElem]
  simp only [i11Word, BitVec.getLsbD_append]
  simp

/-- The masked low bits of an i11 word (R106). -/
theorem i11Word_masked (op : BitVec 2) (imm11 : BitVec 11) : i11Word op imm11 &&& 0x001F#16 = (op.zeroExtend 16 <<< 3) ||| 5#16 := by
  apply BitVec.eq_of_getLsbD_eq
  intro i h
  simp only [i11Word, BitVec.getLsbD_append, BitVec.getLsbD_and, BitVec.getLsbD_or, BitVec.getLsbD_shiftLeft,
    BitVec.getLsbD_setWidth]
  interval_cases i <;> simp

/-! ### i12 -/

@[simp] theorem i12Word_fmt (imm12 : BitVec 12) : fmtField (i12Word imm12) = 0b01#2 := by
  apply BitVec.eq_of_getLsbD_eq
  intro i h
  simp only [fmtField, i12Word, BitVec.getLsbD_append, BitVec.getLsbD_extractLsb']
  interval_cases i <;> simp

@[simp] theorem i12Word_imm12 (imm12 : BitVec 12) : imm12Field (i12Word imm12) = imm12 := by
  apply BitVec.eq_of_getLsbD_eq
  intro i h
  simp only [imm12Field, i12Word, BitVec.getLsbD_append, BitVec.getLsbD_extractLsb']
  interval_cases i <;> simp

@[simp] theorem i12Word_bit2 (imm12 : BitVec 12) : (i12Word imm12)[2] = true := by
  rw [← BitVec.getLsbD_eq_getElem]
  simp only [i12Word, BitVec.getLsbD_append]
  simp

@[simp] theorem i12Word_bit3 (imm12 : BitVec 12) : (i12Word imm12)[3] = true := by
  rw [← BitVec.getLsbD_eq_getElem]
  simp only [i12Word, BitVec.getLsbD_append]
  simp

/-- The masked low bits of an i12 word (R106). -/
theorem i12Word_masked (imm12 : BitVec 12) : i12Word imm12 &&& 0x000F#16 = 0x000D#16 := by
  apply BitVec.eq_of_getLsbD_eq
  intro i h
  simp only [i12Word, BitVec.getLsbD_append, BitVec.getLsbD_and]
  interval_cases i <;> simp

end Sys2Proof
end

