-- ==== Sys2Proof/Laws/State.lean ====
section
/-! SUPPORT. What each named update does to each field of State, and to the reads through accessors: true
by unfolding, said once, so that no later proof unfolds a record update. -/

namespace Sys2Proof.Machine

/-! ### `setReg` -/

@[simp] theorem State.setReg_regs (s : State) (r : RegNum) (v : Word) : (s.setReg r v).regs = s.regs.set r.toNat v r.isLt := rfl
@[simp] theorem State.setReg_pc (s : State) (r : RegNum) (v : Word) : (s.setReg r v).pc = s.pc := rfl
@[simp] theorem State.setReg_c (s : State) (r : RegNum) (v : Word) : (s.setReg r v).c = s.c := rfl
@[simp] theorem State.setReg_uc (s : State) (r : RegNum) (v : Word) : (s.setReg r v).uc = s.uc := rfl
@[simp] theorem State.setReg_immv (s : State) (r : RegNum) (v : Word) : (s.setReg r v).immv = s.immv := rfl
@[simp] theorem State.setReg_imm12 (s : State) (r : RegNum) (v : Word) : (s.setReg r v).imm12 = s.imm12 := rfl
@[simp] theorem State.setReg_skip (s : State) (r : RegNum) (v : Word) : (s.setReg r v).skip = s.skip := rfl
@[simp] theorem State.setReg_halt (s : State) (r : RegNum) (v : Word) : (s.setReg r v).halt = s.halt := rfl
@[simp] theorem State.setReg_error (s : State) (r : RegNum) (v : Word) : (s.setReg r v).error = s.error := rfl
@[simp] theorem State.setReg_dmem (s : State) (r : RegNum) (v : Word) : (s.setReg r v).dmem = s.dmem := rfl
@[simp] theorem State.setReg_imem (s : State) (r : RegNum) (v : Word) : (s.setReg r v).imem = s.imem := rfl
@[simp] theorem State.setReg_csrFile (s : State) (r : RegNum) (v : Word) : (s.setReg r v).csrFile = s.csrFile := rfl
@[simp] theorem State.setReg_readByte (s : State) (r : RegNum) (v : Word) (q : Word) : (s.setReg r v).readByte q = s.readByte q := rfl
@[simp] theorem State.setReg_instrAt (s : State) (r : RegNum) (v : Word) (q : Word) : (s.setReg r v).instrAt q = s.instrAt q := rfl

/-! ### `writeByte` -/

@[simp] theorem State.writeByte_regs (s : State) (a : Word) (b : Byte) : (s.writeByte a b).regs = s.regs := rfl
@[simp] theorem State.writeByte_pc (s : State) (a : Word) (b : Byte) : (s.writeByte a b).pc = s.pc := rfl
@[simp] theorem State.writeByte_c (s : State) (a : Word) (b : Byte) : (s.writeByte a b).c = s.c := rfl
@[simp] theorem State.writeByte_uc (s : State) (a : Word) (b : Byte) : (s.writeByte a b).uc = s.uc := rfl
@[simp] theorem State.writeByte_immv (s : State) (a : Word) (b : Byte) : (s.writeByte a b).immv = s.immv := rfl
@[simp] theorem State.writeByte_imm12 (s : State) (a : Word) (b : Byte) : (s.writeByte a b).imm12 = s.imm12 := rfl
@[simp] theorem State.writeByte_skip (s : State) (a : Word) (b : Byte) : (s.writeByte a b).skip = s.skip := rfl
@[simp] theorem State.writeByte_halt (s : State) (a : Word) (b : Byte) : (s.writeByte a b).halt = s.halt := rfl
@[simp] theorem State.writeByte_error (s : State) (a : Word) (b : Byte) : (s.writeByte a b).error = s.error := rfl
@[simp] theorem State.writeByte_dmem (s : State) (a : Word) (b : Byte) : (s.writeByte a b).dmem = Sparse.write s.dmem a.toNat b := rfl
@[simp] theorem State.writeByte_imem (s : State) (a : Word) (b : Byte) : (s.writeByte a b).imem = s.imem := rfl
@[simp] theorem State.writeByte_csrFile (s : State) (a : Word) (b : Byte) : (s.writeByte a b).csrFile = s.csrFile := rfl
@[simp] theorem State.writeByte_reg (s : State) (a : Word) (b : Byte) (q : RegNum) : (s.writeByte a b).reg q = s.reg q := rfl
@[simp] theorem State.writeByte_instrAt (s : State) (a : Word) (b : Byte) (q : Word) : (s.writeByte a b).instrAt q = s.instrAt q := rfl

/-! ### `placeInstr` -/

@[simp] theorem State.placeInstr_regs (s : State) (a w : Word) : (s.placeInstr a w).regs = s.regs := rfl
@[simp] theorem State.placeInstr_pc (s : State) (a w : Word) : (s.placeInstr a w).pc = s.pc := rfl
@[simp] theorem State.placeInstr_c (s : State) (a w : Word) : (s.placeInstr a w).c = s.c := rfl
@[simp] theorem State.placeInstr_uc (s : State) (a w : Word) : (s.placeInstr a w).uc = s.uc := rfl
@[simp] theorem State.placeInstr_immv (s : State) (a w : Word) : (s.placeInstr a w).immv = s.immv := rfl
@[simp] theorem State.placeInstr_imm12 (s : State) (a w : Word) : (s.placeInstr a w).imm12 = s.imm12 := rfl
@[simp] theorem State.placeInstr_skip (s : State) (a w : Word) : (s.placeInstr a w).skip = s.skip := rfl
@[simp] theorem State.placeInstr_halt (s : State) (a w : Word) : (s.placeInstr a w).halt = s.halt := rfl
@[simp] theorem State.placeInstr_error (s : State) (a w : Word) : (s.placeInstr a w).error = s.error := rfl
@[simp] theorem State.placeInstr_dmem (s : State) (a w : Word) : (s.placeInstr a w).dmem = s.dmem := rfl
@[simp] theorem State.placeInstr_imem (s : State) (a w : Word) : (s.placeInstr a w).imem = Sparse.write s.imem a.toNat w := rfl
@[simp] theorem State.placeInstr_csrFile (s : State) (a w : Word) : (s.placeInstr a w).csrFile = s.csrFile := rfl
@[simp] theorem State.placeInstr_reg (s : State) (a w : Word) (q : RegNum) : (s.placeInstr a w).reg q = s.reg q := rfl
@[simp] theorem State.placeInstr_readByte (s : State) (a w : Word) (q : Word) : (s.placeInstr a w).readByte q = s.readByte q := rfl

/-! ### `jumpTo` -/

@[simp] theorem State.jumpTo_regs (s : State) (t : Word) : (s.jumpTo t).regs = s.regs := rfl
@[simp] theorem State.jumpTo_pc (s : State) (t : Word) : (s.jumpTo t).pc = t := rfl
@[simp] theorem State.jumpTo_c (s : State) (t : Word) : (s.jumpTo t).c = s.c := rfl
@[simp] theorem State.jumpTo_uc (s : State) (t : Word) : (s.jumpTo t).uc = s.uc := rfl
@[simp] theorem State.jumpTo_immv (s : State) (t : Word) : (s.jumpTo t).immv = s.immv := rfl
@[simp] theorem State.jumpTo_imm12 (s : State) (t : Word) : (s.jumpTo t).imm12 = s.imm12 := rfl
@[simp] theorem State.jumpTo_skip (s : State) (t : Word) : (s.jumpTo t).skip = s.skip := rfl
@[simp] theorem State.jumpTo_halt (s : State) (t : Word) : (s.jumpTo t).halt = s.halt := rfl
@[simp] theorem State.jumpTo_error (s : State) (t : Word) : (s.jumpTo t).error = s.error := rfl
@[simp] theorem State.jumpTo_dmem (s : State) (t : Word) : (s.jumpTo t).dmem = s.dmem := rfl
@[simp] theorem State.jumpTo_imem (s : State) (t : Word) : (s.jumpTo t).imem = s.imem := rfl
@[simp] theorem State.jumpTo_csrFile (s : State) (t : Word) : (s.jumpTo t).csrFile = s.csrFile := rfl
@[simp] theorem State.jumpTo_reg (s : State) (t : Word) (q : RegNum) : (s.jumpTo t).reg q = s.reg q := rfl
@[simp] theorem State.jumpTo_readByte (s : State) (t : Word) (q : Word) : (s.jumpTo t).readByte q = s.readByte q := rfl
@[simp] theorem State.jumpTo_instrAt (s : State) (t : Word) (q : Word) : (s.jumpTo t).instrAt q = s.instrAt q := rfl

/-! ### `advance` -/

@[simp] theorem State.advance_regs (s : State) : s.advance.regs = s.regs := rfl
@[simp] theorem State.advance_pc (s : State) : s.advance.pc = s.pc + 1#16 := rfl
@[simp] theorem State.advance_c (s : State) : s.advance.c = s.c := rfl
@[simp] theorem State.advance_uc (s : State) : s.advance.uc = s.uc := rfl
@[simp] theorem State.advance_immv (s : State) : s.advance.immv = s.immv := rfl
@[simp] theorem State.advance_imm12 (s : State) : s.advance.imm12 = s.imm12 := rfl
@[simp] theorem State.advance_skip (s : State) : s.advance.skip = s.skip := rfl
@[simp] theorem State.advance_halt (s : State) : s.advance.halt = s.halt := rfl
@[simp] theorem State.advance_error (s : State) : s.advance.error = s.error := rfl
@[simp] theorem State.advance_dmem (s : State) : s.advance.dmem = s.dmem := rfl
@[simp] theorem State.advance_imem (s : State) : s.advance.imem = s.imem := rfl
@[simp] theorem State.advance_csrFile (s : State) : s.advance.csrFile = s.csrFile := rfl
@[simp] theorem State.advance_reg (s : State) (q : RegNum) : s.advance.reg q = s.reg q := rfl
@[simp] theorem State.advance_readByte (s : State) (q : Word) : s.advance.readByte q = s.readByte q := rfl
@[simp] theorem State.advance_instrAt (s : State) (q : Word) : s.advance.instrAt q = s.instrAt q := rfl

/-! ### `endPrefixState` -/

@[simp] theorem State.endPrefixState_regs (s : State) : s.endPrefixState.regs = s.regs := rfl
@[simp] theorem State.endPrefixState_pc (s : State) : s.endPrefixState.pc = s.pc := rfl
@[simp] theorem State.endPrefixState_c (s : State) : s.endPrefixState.c = false := rfl
@[simp] theorem State.endPrefixState_uc (s : State) : s.endPrefixState.uc = false := rfl
@[simp] theorem State.endPrefixState_immv (s : State) : s.endPrefixState.immv = false := rfl
@[simp] theorem State.endPrefixState_imm12 (s : State) : s.endPrefixState.imm12 = s.imm12 := rfl
@[simp] theorem State.endPrefixState_skip (s : State) : s.endPrefixState.skip = s.skip := rfl
@[simp] theorem State.endPrefixState_halt (s : State) : s.endPrefixState.halt = s.halt := rfl
@[simp] theorem State.endPrefixState_error (s : State) : s.endPrefixState.error = s.error := rfl
@[simp] theorem State.endPrefixState_dmem (s : State) : s.endPrefixState.dmem = s.dmem := rfl
@[simp] theorem State.endPrefixState_imem (s : State) : s.endPrefixState.imem = s.imem := rfl
@[simp] theorem State.endPrefixState_csrFile (s : State) : s.endPrefixState.csrFile = s.csrFile := rfl
@[simp] theorem State.endPrefixState_reg (s : State) (q : RegNum) : s.endPrefixState.reg q = s.reg q := rfl
@[simp] theorem State.endPrefixState_readByte (s : State) (q : Word) : s.endPrefixState.readByte q = s.readByte q := rfl
@[simp] theorem State.endPrefixState_instrAt (s : State) (q : Word) : s.endPrefixState.instrAt q = s.instrAt q := rfl

/-! ### `setCarry` -/

@[simp] theorem State.setCarry_regs (s : State) (b : Bool) : (s.setCarry b).regs = s.regs := rfl
@[simp] theorem State.setCarry_pc (s : State) (b : Bool) : (s.setCarry b).pc = s.pc := rfl
@[simp] theorem State.setCarry_c (s : State) (b : Bool) : (s.setCarry b).c = b := rfl
@[simp] theorem State.setCarry_uc (s : State) (b : Bool) : (s.setCarry b).uc = true := rfl
@[simp] theorem State.setCarry_immv (s : State) (b : Bool) : (s.setCarry b).immv = false := rfl
@[simp] theorem State.setCarry_imm12 (s : State) (b : Bool) : (s.setCarry b).imm12 = s.imm12 := rfl
@[simp] theorem State.setCarry_skip (s : State) (b : Bool) : (s.setCarry b).skip = s.skip := rfl
@[simp] theorem State.setCarry_halt (s : State) (b : Bool) : (s.setCarry b).halt = s.halt := rfl
@[simp] theorem State.setCarry_error (s : State) (b : Bool) : (s.setCarry b).error = s.error := rfl
@[simp] theorem State.setCarry_dmem (s : State) (b : Bool) : (s.setCarry b).dmem = s.dmem := rfl
@[simp] theorem State.setCarry_imem (s : State) (b : Bool) : (s.setCarry b).imem = s.imem := rfl
@[simp] theorem State.setCarry_csrFile (s : State) (b : Bool) : (s.setCarry b).csrFile = s.csrFile := rfl
@[simp] theorem State.setCarry_reg (s : State) (b : Bool) (q : RegNum) : (s.setCarry b).reg q = s.reg q := rfl
@[simp] theorem State.setCarry_readByte (s : State) (b : Bool) (q : Word) : (s.setCarry b).readByte q = s.readByte q := rfl
@[simp] theorem State.setCarry_instrAt (s : State) (b : Bool) (q : Word) : (s.setCarry b).instrAt q = s.instrAt q := rfl

/-! ### `setImm` -/

@[simp] theorem State.setImm_regs (s : State) (v : BitVec 12) : (s.setImm v).regs = s.regs := rfl
@[simp] theorem State.setImm_pc (s : State) (v : BitVec 12) : (s.setImm v).pc = s.pc := rfl
@[simp] theorem State.setImm_c (s : State) (v : BitVec 12) : (s.setImm v).c = s.c := rfl
@[simp] theorem State.setImm_uc (s : State) (v : BitVec 12) : (s.setImm v).uc = s.uc := rfl
@[simp] theorem State.setImm_immv (s : State) (v : BitVec 12) : (s.setImm v).immv = true := rfl
@[simp] theorem State.setImm_imm12 (s : State) (v : BitVec 12) : (s.setImm v).imm12 = v := rfl
@[simp] theorem State.setImm_skip (s : State) (v : BitVec 12) : (s.setImm v).skip = s.skip := rfl
@[simp] theorem State.setImm_halt (s : State) (v : BitVec 12) : (s.setImm v).halt = s.halt := rfl
@[simp] theorem State.setImm_error (s : State) (v : BitVec 12) : (s.setImm v).error = s.error := rfl
@[simp] theorem State.setImm_dmem (s : State) (v : BitVec 12) : (s.setImm v).dmem = s.dmem := rfl
@[simp] theorem State.setImm_imem (s : State) (v : BitVec 12) : (s.setImm v).imem = s.imem := rfl
@[simp] theorem State.setImm_csrFile (s : State) (v : BitVec 12) : (s.setImm v).csrFile = s.csrFile := rfl
@[simp] theorem State.setImm_reg (s : State) (v : BitVec 12) (q : RegNum) : (s.setImm v).reg q = s.reg q := rfl
@[simp] theorem State.setImm_readByte (s : State) (v : BitVec 12) (q : Word) : (s.setImm v).readByte q = s.readByte q := rfl
@[simp] theorem State.setImm_instrAt (s : State) (v : BitVec 12) (q : Word) : (s.setImm v).instrAt q = s.instrAt q := rfl

/-! ### `setSkip` -/

@[simp] theorem State.setSkip_regs (s : State) (b : Bool) : (s.setSkip b).regs = s.regs := rfl
@[simp] theorem State.setSkip_pc (s : State) (b : Bool) : (s.setSkip b).pc = s.pc := rfl
@[simp] theorem State.setSkip_c (s : State) (b : Bool) : (s.setSkip b).c = s.c := rfl
@[simp] theorem State.setSkip_uc (s : State) (b : Bool) : (s.setSkip b).uc = s.uc := rfl
@[simp] theorem State.setSkip_immv (s : State) (b : Bool) : (s.setSkip b).immv = s.immv := rfl
@[simp] theorem State.setSkip_imm12 (s : State) (b : Bool) : (s.setSkip b).imm12 = s.imm12 := rfl
@[simp] theorem State.setSkip_skip (s : State) (b : Bool) : (s.setSkip b).skip = b := rfl
@[simp] theorem State.setSkip_halt (s : State) (b : Bool) : (s.setSkip b).halt = s.halt := rfl
@[simp] theorem State.setSkip_error (s : State) (b : Bool) : (s.setSkip b).error = s.error := rfl
@[simp] theorem State.setSkip_dmem (s : State) (b : Bool) : (s.setSkip b).dmem = s.dmem := rfl
@[simp] theorem State.setSkip_imem (s : State) (b : Bool) : (s.setSkip b).imem = s.imem := rfl
@[simp] theorem State.setSkip_csrFile (s : State) (b : Bool) : (s.setSkip b).csrFile = s.csrFile := rfl
@[simp] theorem State.setSkip_reg (s : State) (b : Bool) (q : RegNum) : (s.setSkip b).reg q = s.reg q := rfl
@[simp] theorem State.setSkip_readByte (s : State) (b : Bool) (q : Word) : (s.setSkip b).readByte q = s.readByte q := rfl
@[simp] theorem State.setSkip_instrAt (s : State) (b : Bool) (q : Word) : (s.setSkip b).instrAt q = s.instrAt q := rfl

/-! ### `assertHalt` -/

@[simp] theorem State.assertHalt_regs (s : State) : s.assertHalt.regs = s.regs := rfl
@[simp] theorem State.assertHalt_pc (s : State) : s.assertHalt.pc = s.pc := rfl
@[simp] theorem State.assertHalt_c (s : State) : s.assertHalt.c = s.c := rfl
@[simp] theorem State.assertHalt_uc (s : State) : s.assertHalt.uc = s.uc := rfl
@[simp] theorem State.assertHalt_immv (s : State) : s.assertHalt.immv = s.immv := rfl
@[simp] theorem State.assertHalt_imm12 (s : State) : s.assertHalt.imm12 = s.imm12 := rfl
@[simp] theorem State.assertHalt_skip (s : State) : s.assertHalt.skip = s.skip := rfl
@[simp] theorem State.assertHalt_halt (s : State) : s.assertHalt.halt = true := rfl
@[simp] theorem State.assertHalt_error (s : State) : s.assertHalt.error = s.error := rfl
@[simp] theorem State.assertHalt_dmem (s : State) : s.assertHalt.dmem = s.dmem := rfl
@[simp] theorem State.assertHalt_imem (s : State) : s.assertHalt.imem = s.imem := rfl
@[simp] theorem State.assertHalt_csrFile (s : State) : s.assertHalt.csrFile = s.csrFile := rfl
@[simp] theorem State.assertHalt_reg (s : State) (q : RegNum) : s.assertHalt.reg q = s.reg q := rfl
@[simp] theorem State.assertHalt_readByte (s : State) (q : Word) : s.assertHalt.readByte q = s.readByte q := rfl
@[simp] theorem State.assertHalt_instrAt (s : State) (q : Word) : s.assertHalt.instrAt q = s.instrAt q := rfl

/-! ### `assertError` -/

@[simp] theorem State.assertError_regs (s : State) : s.assertError.regs = s.regs := rfl
@[simp] theorem State.assertError_pc (s : State) : s.assertError.pc = s.pc := rfl
@[simp] theorem State.assertError_c (s : State) : s.assertError.c = s.c := rfl
@[simp] theorem State.assertError_uc (s : State) : s.assertError.uc = s.uc := rfl
@[simp] theorem State.assertError_immv (s : State) : s.assertError.immv = s.immv := rfl
@[simp] theorem State.assertError_imm12 (s : State) : s.assertError.imm12 = s.imm12 := rfl
@[simp] theorem State.assertError_skip (s : State) : s.assertError.skip = s.skip := rfl
@[simp] theorem State.assertError_halt (s : State) : s.assertError.halt = s.halt := rfl
@[simp] theorem State.assertError_error (s : State) : s.assertError.error = true := rfl
@[simp] theorem State.assertError_dmem (s : State) : s.assertError.dmem = s.dmem := rfl
@[simp] theorem State.assertError_imem (s : State) : s.assertError.imem = s.imem := rfl
@[simp] theorem State.assertError_csrFile (s : State) : s.assertError.csrFile = s.csrFile := rfl
@[simp] theorem State.assertError_reg (s : State) (q : RegNum) : s.assertError.reg q = s.reg q := rfl
@[simp] theorem State.assertError_readByte (s : State) (q : Word) : s.assertError.readByte q = s.readByte q := rfl
@[simp] theorem State.assertError_instrAt (s : State) (q : Word) : s.assertError.instrAt q = s.instrAt q := rfl

/-! ### `setCsrFile` -/

@[simp] theorem State.setCsrFile_regs (s : State) (n : Nat) : (s.setCsrFile n).regs = s.regs := rfl
@[simp] theorem State.setCsrFile_pc (s : State) (n : Nat) : (s.setCsrFile n).pc = s.pc := rfl
@[simp] theorem State.setCsrFile_c (s : State) (n : Nat) : (s.setCsrFile n).c = s.c := rfl
@[simp] theorem State.setCsrFile_uc (s : State) (n : Nat) : (s.setCsrFile n).uc = s.uc := rfl
@[simp] theorem State.setCsrFile_immv (s : State) (n : Nat) : (s.setCsrFile n).immv = s.immv := rfl
@[simp] theorem State.setCsrFile_imm12 (s : State) (n : Nat) : (s.setCsrFile n).imm12 = s.imm12 := rfl
@[simp] theorem State.setCsrFile_skip (s : State) (n : Nat) : (s.setCsrFile n).skip = s.skip := rfl
@[simp] theorem State.setCsrFile_halt (s : State) (n : Nat) : (s.setCsrFile n).halt = s.halt := rfl
@[simp] theorem State.setCsrFile_error (s : State) (n : Nat) : (s.setCsrFile n).error = s.error := rfl
@[simp] theorem State.setCsrFile_dmem (s : State) (n : Nat) : (s.setCsrFile n).dmem = s.dmem := rfl
@[simp] theorem State.setCsrFile_imem (s : State) (n : Nat) : (s.setCsrFile n).imem = s.imem := rfl
@[simp] theorem State.setCsrFile_csrFile (s : State) (n : Nat) : (s.setCsrFile n).csrFile = n := rfl
@[simp] theorem State.setCsrFile_reg (s : State) (n : Nat) (q : RegNum) : (s.setCsrFile n).reg q = s.reg q := rfl
@[simp] theorem State.setCsrFile_readByte (s : State) (n : Nat) (q : Word) : (s.setCsrFile n).readByte q = s.readByte q := rfl
@[simp] theorem State.setCsrFile_instrAt (s : State) (n : Nat) (q : Word) : (s.setCsrFile n).instrAt q = s.instrAt q := rfl

/-! ### `writeWord`, two byte writes -/

@[simp] theorem State.writeWord_regs (s : State) (a v : Word) : (s.writeWord a v).regs = s.regs := rfl
@[simp] theorem State.writeWord_pc (s : State) (a v : Word) : (s.writeWord a v).pc = s.pc := rfl
@[simp] theorem State.writeWord_c (s : State) (a v : Word) : (s.writeWord a v).c = s.c := rfl
@[simp] theorem State.writeWord_uc (s : State) (a v : Word) : (s.writeWord a v).uc = s.uc := rfl
@[simp] theorem State.writeWord_immv (s : State) (a v : Word) : (s.writeWord a v).immv = s.immv := rfl
@[simp] theorem State.writeWord_imm12 (s : State) (a v : Word) : (s.writeWord a v).imm12 = s.imm12 := rfl
@[simp] theorem State.writeWord_skip (s : State) (a v : Word) : (s.writeWord a v).skip = s.skip := rfl
@[simp] theorem State.writeWord_halt (s : State) (a v : Word) : (s.writeWord a v).halt = s.halt := rfl
@[simp] theorem State.writeWord_error (s : State) (a v : Word) : (s.writeWord a v).error = s.error := rfl
@[simp] theorem State.writeWord_imem (s : State) (a v : Word) : (s.writeWord a v).imem = s.imem := rfl
@[simp] theorem State.writeWord_csrFile (s : State) (a v : Word) : (s.writeWord a v).csrFile = s.csrFile := rfl
@[simp] theorem State.writeWord_reg (s : State) (a v : Word) (q : RegNum) : (s.writeWord a v).reg q = s.reg q := rfl
@[simp] theorem State.writeWord_instrAt (s : State) (a v q : Word) : (s.writeWord a v).instrAt q = s.instrAt q := rfl

/-! ### Registers -/

@[simp] theorem State.pcn_eq (s : State) : s.pcn = s.pc + 1#16 := rfl

/-- A register reads as what was last written to it. -/
@[simp] theorem State.reg_setReg_same (s : State) (r : RegNum) (v : Word) : (s.setReg r v).reg r = v := by
  simp [State.reg, State.setReg]

/-- Writing one register leaves the others alone. -/
theorem State.reg_setReg_ne (s : State) {r q : RegNum} (h : q ≠ r) (v : Word) : (s.setReg r v).reg q = s.reg q := by
  have hn : r.toNat ≠ q.toNat := fun e => h (BitVec.eq_of_toNat_eq e.symm)
  simp [State.reg, State.setReg, hn]

theorem State.reg_setReg (s : State) (r q : RegNum) (v : Word) :
    (s.setReg r v).reg q = if q = r then v else s.reg q := by
  split
  · next h => subst h; simp
  · next h => exact State.reg_setReg_ne s h v

end Sys2Proof.Machine
end

