-- ==== Sys2Proof/Laws/Memory.lean ====
section
/-! SUPPORT. The laws of data by address: read after write, canonical form; and of bytes and words in data
memory under either byte order. -/

namespace Sys2Proof.Machine

variable {α : Type}

theorem Sparse.read_write_same (m : Sparse α) (a : Nat) (v : α) : Sparse.read (Sparse.write m a v) a = some v := by
  induction m with
  | nil => simp [Sparse.write, Sparse.read]
  | cons e rest ih =>
    obtain ⟨k, w⟩ := e
    simp only [Sparse.write]
    split
    · simp [Sparse.read]
    · split
      · simp [Sparse.read]
      · next h => simp [Sparse.read, h, ih]

theorem Sparse.read_write_ne (m : Sparse α) {a b : Nat} (h : b ≠ a) (v : α) :
    Sparse.read (Sparse.write m a v) b = Sparse.read m b := by
  induction m with
  | nil => simp [Sparse.write, Sparse.read, h]
  | cons e rest ih =>
    obtain ⟨k, w⟩ := e
    simp only [Sparse.write]
    split
    · simp [Sparse.read, h]
    · split
      · next hk => subst hk; simp [Sparse.read, h]
      · simp [Sparse.read, ih]

theorem Sparse.wfFrom_write (m : Sparse α) {lo a : Nat} (v : α) (h : Sparse.wfFrom lo m = true) (hl : lo ≤ a)
    (ha : a < 2 ^ 16) : Sparse.wfFrom lo (Sparse.write m a v) = true := by
  induction m generalizing lo with
  | nil => simp [Sparse.write, Sparse.wfFrom, hl]; omega
  | cons e rest ih =>
    obtain ⟨k, w⟩ := e
    simp only [Sparse.wfFrom, Bool.and_eq_true, decide_eq_true_eq] at h
    obtain ⟨⟨hk, hk2⟩, hr⟩ := h
    simp only [Sparse.write]
    split
    · next hlt =>
      have hlt' : a + 1 ≤ k := hlt
      simp only [Sparse.wfFrom, Bool.and_eq_true, decide_eq_true_eq]
      exact ⟨⟨hl, ha⟩, ⟨hlt', hk2⟩, hr⟩
    · split
      · next he =>
        subst he
        simp only [Sparse.wfFrom, Bool.and_eq_true, decide_eq_true_eq]
        exact ⟨⟨hl, ha⟩, hr⟩
      · next h1 h2 =>
        have hlt : k + 1 ≤ a := by omega
        simp only [Sparse.wfFrom, Bool.and_eq_true, decide_eq_true_eq]
        exact ⟨⟨hk, hk2⟩, ih hr hlt⟩

/-- A write keeps the canonical form. -/
theorem Sparse.wf_write (m : Sparse α) {a : Nat} (v : α) (h : Sparse.wf m = true) (ha : a < 2 ^ 16) :
    Sparse.wf (Sparse.write m a v) = true :=
  Sparse.wfFrom_write m v h (Nat.zero_le a) ha

theorem State.wf_writeByte (s : State) (a : Word) (b : Byte) (h : Memory.wf s.dmem = true) :
    Memory.wf (s.writeByte a b).dmem = true :=
  Sparse.wf_write s.dmem b h a.isLt

theorem State.wf_writeWord (s : State) (a v : Word) (h : Memory.wf s.dmem = true) :
    Memory.wf (s.writeWord a v).dmem = true :=
  State.wf_writeByte _ _ _ (State.wf_writeByte s a _ h)

theorem State.wf_placeInstr (s : State) (a w : Word) (h : Sparse.wf s.imem = true) :
    Sparse.wf (s.placeInstr a w).imem = true :=
  Sparse.wf_write s.imem w h a.isLt

/-! ## Data memory -/

@[simp] theorem State.readByte_writeByte_same (s : State) (a : Word) (b : Byte) :
    (s.writeByte a b).readByte a = some b :=
  Sparse.read_write_same s.dmem a.toNat b

theorem State.readByte_writeByte_ne (s : State) {a q : Word} (h : q ≠ a) (b : Byte) :
    (s.writeByte a b).readByte q = s.readByte q :=
  Sparse.read_write_ne s.dmem (fun e => h (BitVec.eq_of_toNat_eq e)) b

/-- `MemWrite(a, 2, v)` changes no byte but its two (R56). -/
theorem State.readByte_writeWord_ne (s : State) {a q : Word} (h : q ≠ a) (h1 : q ≠ a + 1#16) (v : Word) :
    (s.writeWord a v).readByte q = s.readByte q := by
  rw [State.writeWord, State.readByte_writeByte_ne _ h1, State.readByte_writeByte_ne _ h]

theorem ne_add_one (a : Word) : a ≠ a + 1#16 := by bv_omega

theorem State.readByte_writeWord_even (s : State) (a v : Word) :
    (s.writeWord a v).readByte a = some (evenByte Config.byteOrder v) := by
  rw [State.writeWord, State.readByte_writeByte_ne _ (ne_add_one a), State.readByte_writeByte_same]

theorem State.readByte_writeWord_odd (s : State) (a v : Word) :
    (s.writeWord a v).readByte (a + 1#16) = some (oddByte Config.byteOrder v) := by
  rw [State.writeWord, State.readByte_writeByte_same]

/-- Under either byte order a word is made of its two bytes. -/
@[simp] theorem joinBytes_of_bytes (o : ByteOrder) (v : Word) : joinBytes o (evenByte o v) (oddByte o v) = v := by
  cases o <;>
    · simp only [joinBytes, evenByte, oddByte]
      apply BitVec.eq_of_getLsbD_eq
      intro i hi
      simp only [BitVec.getLsbD_append, BitVec.getLsbD_extractLsb']
      by_cases h : i < 8
      · simp [h]
      · simp only [h]
        have : 8 + (i - 8) = i := by omega
        have h8 : i - 8 < 8 := by omega
        simp [this, h8]

/-- A word reads back as it was written (R55, R56). -/
@[simp] theorem State.readWord_writeWord_same (s : State) (a v : Word) : (s.writeWord a v).readWord a = some v := by
  simp [State.readWord, State.readByte_writeWord_even, State.readByte_writeWord_odd]

end Sys2Proof.Machine
end

