-- ==== Sys2Proof/Laws/Exec.lean ====
section
/-! SUPPORT. What the shared operations of execution can answer, said once: admission, retiring, loads; and
one inversion of `exec`: everything an executed instruction can do to the state. -/

namespace Sys2Proof.Machine

/-! ## Admission (R122) -/

theorem admitted_eq_next {i : Instr} {s t : State} {e : Result} :
    admitted i s e = .next t ↔ admission i s = none ∧ e = .next t := by
  unfold admitted
  cases admission i s <;> simp

theorem admitted_eq_fault {i : Instr} {s : State} {e : Result} {f : Fault} :
    admitted i s e = .fault f ↔ admission i s = none ∧ e = .fault f := by
  unfold admitted
  cases admission i s <;> simp

theorem admitted_eq_refused {i : Instr} {s : State} {e : Result} {r : Refusal} :
    admitted i s e = .refused r ↔ admission i s = some r ∨ admission i s = none ∧ e = .refused r := by
  unfold admitted
  cases admission i s <;> simp

theorem admitted_of_none {i : Instr} {s : State} (e : Result) (h : admission i s = none) : admitted i s e = e := by
  simp [admitted, h]

/-- With no prefix pending every instruction is admitted. -/
theorem admit_of_noPrefix (i : Instr) {s : State} (h : NoPrefix s) : admission i s = none := by
  simp [admission, h.1, h.2]

/-- An instruction with an immediate other than `imm` is admitted unless a carry is pending. -/
theorem admit_of_immediate {i : Instr} {s : State} (hu : s.uc = false) (h12 : i.format ≠ .i12) (hrr : i.format ≠ .rr) :
    admission i s = none := by
  simp [admission, hu, h12, hrr]

/-- `add`, `sub`, `addc`, `subc` are admitted with a carry pending; in rr format only without an `imm`. -/
theorem admit_of_usesCarry {i : Instr} {s : State} (hc : i.usesCarry = true) (h12 : i.format ≠ .i12)
    (hrr : i.format ≠ .rr ∨ s.immv = false) : admission i s = none := by
  rcases hrr with h | h <;> simp [admission, h12, hc, h]

/-- An admitted `imm` finds no prefix state pending. -/
theorem noPrefix_of_admit_i12 {i : Instr} {s : State} (h : admission i s = none) (h12 : i.format = .i12) : NoPrefix s := by
  unfold admission at h
  cases hm : s.immv <;> cases hu : s.uc <;> simp_all [NoPrefix]

/-- An admitted rr instruction that is not `add`, `sub`, `addc`, `subc` finds no prefix state pending. -/
theorem noPrefix_of_admit_rr {i : Instr} {s : State} (h : admission i s = none) (hrr : i.format = .rr)
    (hc : i.usesCarry = false) : NoPrefix s := by
  unfold admission at h
  cases hm : s.immv <;> cases hu : s.uc <;> simp_all [NoPrefix]

/-! ## The ends of instructions -/

theorem retire_eq (s : State) : retire s = .next s.endPrefixState.advance := rfl

theorem writeBack_eq (s : State) (rd : RegNum) (v : Word) :
    writeBack s rd v = .next (s.setReg rd v).endPrefixState.advance := rfl

theorem skipUnless_eq (s : State) (c : Bool) :
    skipUnless s c = .next (if c then s else s.setSkip true).endPrefixState.advance := rfl

theorem loadInto_eq_next {s t : State} {rd : RegNum} {v : Option Word} :
    loadInto s rd v = .next t ↔ ∃ x, v = some x ∧ t = (s.setReg rd x).endPrefixState.advance := by
  cases v <;> simp [loadInto, writeBack_eq, eq_comm]

theorem loadInto_eq_fault {s : State} {rd : RegNum} {v : Option Word} {f : Fault} :
    loadInto s rd v = .fault f ↔ v = none ∧ f = .noByte := by
  cases v <;> simp [loadInto, writeBack_eq, eq_comm]

theorem loadInto_ne_refused (s : State) (rd : RegNum) (v : Option Word) (r : Refusal) : loadInto s rd v ≠ .refused r := by
  cases v <;> simp [loadInto, writeBack_eq]

/-! ## What an executed instruction can do -/

/-- Everything executing `i` in `s` can lead to. -/
inductive Effect (i : Instr) (s : State) : State → Prop
  | plain : i.isPrefix = false → Effect i s s.endPrefixState.advance
  | write (rd v) : dest i = some rd → i.isPrefix = false → Effect i s (s.setReg rd v).endPrefixState.advance
  | csrRead (rd n) : i = .rcsr rd n →
      Effect i s ((s.setCsrFile (Config.csrReadNext s.csrFile n)).setReg rd (Config.csrRead s.csrFile n)).endPrefixState.advance
  | csrWrite (n rd) : i = .wcsr n rd →
      Effect i s (s.setCsrFile (Config.csrWrite s.csrFile n (s.reg rd))).endPrefixState.advance
  | storeWord (rd rs imm4) : i = .store rd rs imm4 →
      Effect i s (s.writeWord (wordAddr s rs imm4) (s.reg rd)).endPrefixState.advance
  | storeByte (rd rs imm4) : i = .storeb rd rs imm4 →
      Effect i s (s.writeByte (byteAddr s rs imm4) ((s.reg rd).extractLsb' 0 8)).endPrefixState.advance
  | skipNext : IsIf i → Effect i s (s.setSkip true).endPrefixState.advance
  | jump (target) : (∃ rd, i = .jumpRr rd) ∨ (∃ imm11, i = .jumpI11 imm11) → Effect i s (s.endPrefixState.jumpTo target)
  | call (target) : (∃ rd, i = .callRr rd) ∨ (∃ imm11, i = .callI11 imm11) →
      Effect i s ((s.setReg 0#4 s.pcn).endPrefixState.jumpTo target)
  | carry (rd v b) : dest i = some rd → i.isPrefix = true → i.format ≠ .i12 →
      Effect i s ((s.setReg rd v).setCarry b).advance
  | imm (v) : i = .imm v → NoPrefix s → Effect i s (s.setImm v).advance
  | halt : i = .halt → NoPrefix s → Effect i s s.assertHalt
  | error : i = .error → NoPrefix s → Effect i s s.assertError

theorem isPrefix_of_isIf {i : Instr} (h : IsIf i) : i.isPrefix = false := by
  rcases h with ⟨_, _, h⟩ | ⟨_, _, h⟩ <;> rcases h with rfl | rfl | rfl | rfl | rfl | rfl <;> rfl

theorem dest_of_isIf {i : Instr} (h : IsIf i) : dest i = none := by
  rcases h with ⟨_, _, h⟩ | ⟨_, _, h⟩ <;> rcases h with rfl | rfl | rfl | rfl | rfl | rfl <;> rfl

theorem isPrefix_of_jump {i : Instr} (h : (∃ rd, i = .jumpRr rd) ∨ (∃ imm11, i = .jumpI11 imm11)) :
    i.isPrefix = false := by
  rcases h with ⟨_, rfl⟩ | ⟨_, rfl⟩ <;> rfl

theorem isPrefix_of_call {i : Instr} (h : (∃ rd, i = .callRr rd) ∨ (∃ imm11, i = .callI11 imm11)) :
    i.isPrefix = false := by
  rcases h with ⟨_, rfl⟩ | ⟨_, rfl⟩ <;> rfl

theorem effect_skipUnless {i : Instr} {s t : State} {c : Bool} (hi : IsIf i) (hp : i.isPrefix = false)
    (h : skipUnless s c = .next t) : Effect i s t := by
  rw [skipUnless_eq] at h
  injection h with h
  subst h
  cases c
  · exact .skipNext hi
  · exact .plain hp

theorem effect_loadInto {i : Instr} {s t : State} {rd : RegNum} {v : Option Word} (hd : dest i = some rd)
    (hp : i.isPrefix = false) (h : loadInto s rd v = .next t) : Effect i s t := by
  obtain ⟨x, -, rfl⟩ := loadInto_eq_next.mp h
  exact .write rd x hd hp

/-- The inversion of `exec`: if it answers a next state, that state is one of the effects. -/
theorem exec_effect {i : Instr} {s t : State} (h : exec i s = .next t) : Effect i s t := by
  cases i
  case nop =>
    obtain ⟨ha, h⟩ := admitted_eq_next.mp h
    injection h with h
    subst h
    exact .plain rfl
  case rets =>
    obtain ⟨ha, h⟩ := admitted_eq_next.mp h
    exact absurd h (by simp)
  case error =>
    obtain ⟨ha, h⟩ := admitted_eq_next.mp h
    injection h with h
    subst h
    exact .error rfl (noPrefix_of_admit_rr ha rfl rfl)
  case halt =>
    obtain ⟨ha, h⟩ := admitted_eq_next.mp h
    injection h with h
    subst h
    exact .halt rfl (noPrefix_of_admit_rr ha rfl rfl)
  case rcsr rd csr =>
    obtain ⟨ha, h⟩ := admitted_eq_next.mp h
    injection h with h
    subst h
    exact .csrRead rd csr rfl
  case wcsr csr rd =>
    obtain ⟨ha, h⟩ := admitted_eq_next.mp h
    injection h with h
    subst h
    exact .csrWrite csr rd rfl
  case moveRr rd rs =>
    obtain ⟨ha, h⟩ := admitted_eq_next.mp h
    injection h with h
    subst h
    exact .write rd _ rfl rfl
  case moveRi8 rd imm8 =>
    obtain ⟨ha, h⟩ := admitted_eq_next.mp h
    injection h with h
    subst h
    exact .write rd _ rfl rfl
  case loadcRr rd rs =>
    obtain ⟨ha, h⟩ := admitted_eq_next.mp h
    injection h with h
    subst h
    exact .write rd _ rfl rfl
  case loadcRi8 rd imm8 =>
    obtain ⟨ha, h⟩ := admitted_eq_next.mp h
    injection h with h
    subst h
    exact .write rd _ rfl rfl
  case jumpRr rd =>
    obtain ⟨ha, h⟩ := admitted_eq_next.mp h
    injection h with h
    subst h
    exact .jump _ (.inl ⟨_, rfl⟩)
  case jumpI11 imm11 =>
    obtain ⟨ha, h⟩ := admitted_eq_next.mp h
    injection h with h
    subst h
    exact .jump _ (.inr ⟨_, rfl⟩)
  case imm imm12 =>
    obtain ⟨ha, h⟩ := admitted_eq_next.mp h
    injection h with h
    subst h
    exact .imm imm12 rfl (noPrefix_of_admit_i12 ha rfl)
  case callRr rd =>
    obtain ⟨ha, h⟩ := admitted_eq_next.mp h
    injection h with h
    subst h
    exact .call _ (.inl ⟨_, rfl⟩)
  case callI11 imm11 =>
    obtain ⟨ha, h⟩ := admitted_eq_next.mp h
    injection h with h
    subst h
    exact .call _ (.inr ⟨_, rfl⟩)
  case load rd rs imm4 =>
    obtain ⟨ha, h⟩ := admitted_eq_next.mp h
    exact effect_loadInto rfl rfl h
  case store rd rs imm4 =>
    obtain ⟨ha, h⟩ := admitted_eq_next.mp h
    injection h with h
    subst h
    exact .storeWord rd rs imm4 rfl
  case loadb rd rs imm4 =>
    obtain ⟨ha, h⟩ := admitted_eq_next.mp h
    exact effect_loadInto rfl rfl h
  case storeb rd rs imm4 =>
    obtain ⟨ha, h⟩ := admitted_eq_next.mp h
    injection h with h
    subst h
    exact .storeByte rd rs imm4 rfl
  case addRr rd rs =>
    obtain ⟨ha, h⟩ := admitted_eq_next.mp h
    injection h with h
    subst h
    exact .write rd _ rfl rfl
  case addRi6 rd imm6 =>
    obtain ⟨ha, h⟩ := admitted_eq_next.mp h
    injection h with h
    subst h
    exact .write rd _ rfl rfl
  case subRr rd rs =>
    obtain ⟨ha, h⟩ := admitted_eq_next.mp h
    injection h with h
    subst h
    exact .write rd _ rfl rfl
  case subRi6 rd imm6 =>
    obtain ⟨ha, h⟩ := admitted_eq_next.mp h
    injection h with h
    subst h
    exact .write rd _ rfl rfl
  case addcRr rd rs =>
    obtain ⟨ha, h⟩ := admitted_eq_next.mp h
    injection h with h
    subst h
    exact .carry rd _ _ rfl rfl (by simp [Instr.format])
  case addcRi6 rd imm6 =>
    obtain ⟨ha, h⟩ := admitted_eq_next.mp h
    injection h with h
    subst h
    exact .carry rd _ _ rfl rfl (by simp [Instr.format])
  case subcRr rd rs =>
    obtain ⟨ha, h⟩ := admitted_eq_next.mp h
    injection h with h
    subst h
    exact .carry rd _ _ rfl rfl (by simp [Instr.format])
  case subcRi6 rd imm6 =>
    obtain ⟨ha, h⟩ := admitted_eq_next.mp h
    injection h with h
    subst h
    exact .carry rd _ _ rfl rfl (by simp [Instr.format])
  case xorRr rd rs =>
    obtain ⟨ha, h⟩ := admitted_eq_next.mp h
    injection h with h
    subst h
    exact .write rd _ rfl rfl
  case xorRi6 rd imm6 =>
    obtain ⟨ha, h⟩ := admitted_eq_next.mp h
    injection h with h
    subst h
    exact .write rd _ rfl rfl
  case andRr rd rs =>
    obtain ⟨ha, h⟩ := admitted_eq_next.mp h
    injection h with h
    subst h
    exact .write rd _ rfl rfl
  case andRi6 rd imm6 =>
    obtain ⟨ha, h⟩ := admitted_eq_next.mp h
    injection h with h
    subst h
    exact .write rd _ rfl rfl
  case orRr rd rs =>
    obtain ⟨ha, h⟩ := admitted_eq_next.mp h
    injection h with h
    subst h
    exact .write rd _ rfl rfl
  case orRi6 rd imm6 =>
    obtain ⟨ha, h⟩ := admitted_eq_next.mp h
    injection h with h
    subst h
    exact .write rd _ rfl rfl
  case shlRr rd rs =>
    obtain ⟨ha, h⟩ := admitted_eq_next.mp h
    injection h with h
    subst h
    exact .write rd _ rfl rfl
  case shlRi6 rd imm6 =>
    obtain ⟨ha, h⟩ := admitted_eq_next.mp h
    injection h with h
    subst h
    exact .write rd _ rfl rfl
  case shrRr rd rs =>
    obtain ⟨ha, h⟩ := admitted_eq_next.mp h
    injection h with h
    subst h
    exact .write rd _ rfl rfl
  case shrRi6 rd imm6 =>
    obtain ⟨ha, h⟩ := admitted_eq_next.mp h
    injection h with h
    subst h
    exact .write rd _ rfl rfl
  case asrRr rd rs =>
    obtain ⟨ha, h⟩ := admitted_eq_next.mp h
    injection h with h
    subst h
    exact .write rd _ rfl rfl
  case asrRi6 rd imm6 =>
    obtain ⟨ha, h⟩ := admitted_eq_next.mp h
    injection h with h
    subst h
    exact .write rd _ rfl rfl
  case ifEqRr rd rs =>
    obtain ⟨ha, h⟩ := admitted_eq_next.mp h
    exact effect_skipUnless (by simp [IsIf]) rfl h
  case ifEqRi6 rd imm6 =>
    obtain ⟨ha, h⟩ := admitted_eq_next.mp h
    exact effect_skipUnless (by simp [IsIf]) rfl h
  case ifNeRr rd rs =>
    obtain ⟨ha, h⟩ := admitted_eq_next.mp h
    exact effect_skipUnless (by simp [IsIf]) rfl h
  case ifNeRi6 rd imm6 =>
    obtain ⟨ha, h⟩ := admitted_eq_next.mp h
    exact effect_skipUnless (by simp [IsIf]) rfl h
  case ifLtRr rd rs =>
    obtain ⟨ha, h⟩ := admitted_eq_next.mp h
    exact effect_skipUnless (by simp [IsIf]) rfl h
  case ifLtRi6 rd imm6 =>
    obtain ⟨ha, h⟩ := admitted_eq_next.mp h
    exact effect_skipUnless (by simp [IsIf]) rfl h
  case ifGeRr rd rs =>
    obtain ⟨ha, h⟩ := admitted_eq_next.mp h
    exact effect_skipUnless (by simp [IsIf]) rfl h
  case ifGeRi6 rd imm6 =>
    obtain ⟨ha, h⟩ := admitted_eq_next.mp h
    exact effect_skipUnless (by simp [IsIf]) rfl h
  case ifUltRr rd rs =>
    obtain ⟨ha, h⟩ := admitted_eq_next.mp h
    exact effect_skipUnless (by simp [IsIf]) rfl h
  case ifUltRi6 rd imm6 =>
    obtain ⟨ha, h⟩ := admitted_eq_next.mp h
    exact effect_skipUnless (by simp [IsIf]) rfl h
  case ifUgeRr rd rs =>
    obtain ⟨ha, h⟩ := admitted_eq_next.mp h
    exact effect_skipUnless (by simp [IsIf]) rfl h
  case ifUgeRi6 rd imm6 =>
    obtain ⟨ha, h⟩ := admitted_eq_next.mp h
    exact effect_skipUnless (by simp [IsIf]) rfl h
  case reservedOp9or11 w => exact absurd h (by simp [exec, execReservedOp9or11])
  case reservedOp12to15 w => exact absurd h (by simp [exec, execReservedOp12to15])
  case reservedBit7 w => exact absurd h (by simp [exec, execReservedBit7])

end Sys2Proof.Machine
end

