-- ==== Sys2Proof/Laws/PerInstr.lean ====
section
/-! SUPPORT. The family `EncodesInRow`: the word of a well-formed instruction lies in the instruction's row of
the opcode table (R106), one lemma per constructor. -/

namespace Sys2Proof.Laws

/-- The encoded word, under the row's mask, is the row's match. -/
def EncodesInRow.Statement (i : Instr) : Prop := i.wellFormed = true → encode i &&& i.row.1 = i.row.2

theorem EncodesInRow.nop : EncodesInRow.Statement .nop :=
  fun _ => rrWord_masked 0b00000#5 0#4 0#4

theorem EncodesInRow.rets : EncodesInRow.Statement .rets :=
  fun _ => rrWord_masked 0b00001#5 0#4 0#4

theorem EncodesInRow.error : EncodesInRow.Statement .error :=
  fun _ => rrWord_masked 0b00010#5 0#4 0#4

theorem EncodesInRow.halt : EncodesInRow.Statement .halt :=
  fun _ => rrWord_masked 0b00011#5 0#4 0#4

theorem EncodesInRow.rcsr (rd : RegNum) (csr : CsrNum) : EncodesInRow.Statement (.rcsr rd csr) :=
  fun _ => rrWord_masked 0b00100#5 rd csr

theorem EncodesInRow.wcsr (csr : CsrNum) (rd : RegNum) : EncodesInRow.Statement (.wcsr csr rd) :=
  fun _ => rrWord_masked 0b00101#5 rd csr

theorem EncodesInRow.moveRr (rd : RegNum) (rs : RegNum) : EncodesInRow.Statement (.moveRr rd rs) :=
  fun _ => rrWord_masked 0b00110#5 rd rs

theorem EncodesInRow.moveRi8 (rd : RegNum) (imm8 : BitVec 8) : EncodesInRow.Statement (.moveRi8 rd imm8) :=
  fun _ => ri8Word_masked 0b0#1 rd imm8

theorem EncodesInRow.loadcRr (rd : RegNum) (rs : RegNum) : EncodesInRow.Statement (.loadcRr rd rs) :=
  fun _ => rrWord_masked 0b00111#5 rd rs

theorem EncodesInRow.loadcRi8 (rd : RegNum) (imm8 : BitVec 8) : EncodesInRow.Statement (.loadcRi8 rd imm8) :=
  fun _ => ri8Word_masked 0b1#1 rd imm8

theorem EncodesInRow.jumpRr (rd : RegNum) : EncodesInRow.Statement (.jumpRr rd) :=
  fun _ => rrWord_masked 0b01000#5 rd 0#4

theorem EncodesInRow.jumpI11 (imm11 : BitVec 11) : EncodesInRow.Statement (.jumpI11 imm11) :=
  fun _ => i11Word_masked 0b00#2 imm11

theorem EncodesInRow.imm (imm12 : BitVec 12) : EncodesInRow.Statement (.imm imm12) :=
  fun _ => i12Word_masked imm12

theorem EncodesInRow.callRr (rd : RegNum) : EncodesInRow.Statement (.callRr rd) :=
  fun _ => rrWord_masked 0b01010#5 rd 0#4

theorem EncodesInRow.callI11 (imm11 : BitVec 11) : EncodesInRow.Statement (.callI11 imm11) :=
  fun _ => i11Word_masked 0b10#2 imm11

theorem EncodesInRow.load (rd : RegNum) (rs : RegNum) (imm4 : BitVec 4) : EncodesInRow.Statement (.load rd rs imm4) :=
  fun _ => lsWord_masked 0b00#2 rd rs imm4

theorem EncodesInRow.store (rd : RegNum) (rs : RegNum) (imm4 : BitVec 4) : EncodesInRow.Statement (.store rd rs imm4) :=
  fun _ => lsWord_masked 0b01#2 rd rs imm4

theorem EncodesInRow.loadb (rd : RegNum) (rs : RegNum) (imm4 : BitVec 4) : EncodesInRow.Statement (.loadb rd rs imm4) :=
  fun _ => lsWord_masked 0b10#2 rd rs imm4

theorem EncodesInRow.storeb (rd : RegNum) (rs : RegNum) (imm4 : BitVec 4) : EncodesInRow.Statement (.storeb rd rs imm4) :=
  fun _ => lsWord_masked 0b11#2 rd rs imm4

theorem EncodesInRow.addRr (rd : RegNum) (rs : RegNum) : EncodesInRow.Statement (.addRr rd rs) :=
  fun _ => rrWord_masked 0b10000#5 rd rs

theorem EncodesInRow.addRi6 (rd : RegNum) (imm6 : BitVec 6) : EncodesInRow.Statement (.addRi6 rd imm6) :=
  fun _ => ri6Word_masked 0b0000#4 rd imm6

theorem EncodesInRow.subRr (rd : RegNum) (rs : RegNum) : EncodesInRow.Statement (.subRr rd rs) :=
  fun _ => rrWord_masked 0b10001#5 rd rs

theorem EncodesInRow.subRi6 (rd : RegNum) (imm6 : BitVec 6) : EncodesInRow.Statement (.subRi6 rd imm6) :=
  fun _ => ri6Word_masked 0b0001#4 rd imm6

theorem EncodesInRow.addcRr (rd : RegNum) (rs : RegNum) : EncodesInRow.Statement (.addcRr rd rs) :=
  fun _ => rrWord_masked 0b10010#5 rd rs

theorem EncodesInRow.addcRi6 (rd : RegNum) (imm6 : BitVec 6) : EncodesInRow.Statement (.addcRi6 rd imm6) :=
  fun _ => ri6Word_masked 0b0010#4 rd imm6

theorem EncodesInRow.subcRr (rd : RegNum) (rs : RegNum) : EncodesInRow.Statement (.subcRr rd rs) :=
  fun _ => rrWord_masked 0b10011#5 rd rs

theorem EncodesInRow.subcRi6 (rd : RegNum) (imm6 : BitVec 6) : EncodesInRow.Statement (.subcRi6 rd imm6) :=
  fun _ => ri6Word_masked 0b0011#4 rd imm6

theorem EncodesInRow.xorRr (rd : RegNum) (rs : RegNum) : EncodesInRow.Statement (.xorRr rd rs) :=
  fun _ => rrWord_masked 0b10100#5 rd rs

theorem EncodesInRow.xorRi6 (rd : RegNum) (imm6 : BitVec 6) : EncodesInRow.Statement (.xorRi6 rd imm6) :=
  fun _ => ri6Word_masked 0b0100#4 rd imm6

theorem EncodesInRow.andRr (rd : RegNum) (rs : RegNum) : EncodesInRow.Statement (.andRr rd rs) :=
  fun _ => rrWord_masked 0b10101#5 rd rs

theorem EncodesInRow.andRi6 (rd : RegNum) (imm6 : BitVec 6) : EncodesInRow.Statement (.andRi6 rd imm6) :=
  fun _ => ri6Word_masked 0b0101#4 rd imm6

theorem EncodesInRow.orRr (rd : RegNum) (rs : RegNum) : EncodesInRow.Statement (.orRr rd rs) :=
  fun _ => rrWord_masked 0b10110#5 rd rs

theorem EncodesInRow.orRi6 (rd : RegNum) (imm6 : BitVec 6) : EncodesInRow.Statement (.orRi6 rd imm6) :=
  fun _ => ri6Word_masked 0b0110#4 rd imm6

theorem EncodesInRow.shlRr (rd : RegNum) (rs : RegNum) : EncodesInRow.Statement (.shlRr rd rs) :=
  fun _ => rrWord_masked 0b10111#5 rd rs

theorem EncodesInRow.shlRi6 (rd : RegNum) (imm6 : BitVec 6) : EncodesInRow.Statement (.shlRi6 rd imm6) :=
  fun _ => ri6Word_masked 0b0111#4 rd imm6

theorem EncodesInRow.shrRr (rd : RegNum) (rs : RegNum) : EncodesInRow.Statement (.shrRr rd rs) :=
  fun _ => rrWord_masked 0b11000#5 rd rs

theorem EncodesInRow.shrRi6 (rd : RegNum) (imm6 : BitVec 6) : EncodesInRow.Statement (.shrRi6 rd imm6) :=
  fun _ => ri6Word_masked 0b1000#4 rd imm6

theorem EncodesInRow.asrRr (rd : RegNum) (rs : RegNum) : EncodesInRow.Statement (.asrRr rd rs) :=
  fun _ => rrWord_masked 0b11001#5 rd rs

theorem EncodesInRow.asrRi6 (rd : RegNum) (imm6 : BitVec 6) : EncodesInRow.Statement (.asrRi6 rd imm6) :=
  fun _ => ri6Word_masked 0b1001#4 rd imm6

theorem EncodesInRow.ifEqRr (rd : RegNum) (rs : RegNum) : EncodesInRow.Statement (.ifEqRr rd rs) :=
  fun _ => rrWord_masked 0b11010#5 rd rs

theorem EncodesInRow.ifEqRi6 (rd : RegNum) (imm6 : BitVec 6) : EncodesInRow.Statement (.ifEqRi6 rd imm6) :=
  fun _ => ri6Word_masked 0b1010#4 rd imm6

theorem EncodesInRow.ifNeRr (rd : RegNum) (rs : RegNum) : EncodesInRow.Statement (.ifNeRr rd rs) :=
  fun _ => rrWord_masked 0b11011#5 rd rs

theorem EncodesInRow.ifNeRi6 (rd : RegNum) (imm6 : BitVec 6) : EncodesInRow.Statement (.ifNeRi6 rd imm6) :=
  fun _ => ri6Word_masked 0b1011#4 rd imm6

theorem EncodesInRow.ifLtRr (rd : RegNum) (rs : RegNum) : EncodesInRow.Statement (.ifLtRr rd rs) :=
  fun _ => rrWord_masked 0b11100#5 rd rs

theorem EncodesInRow.ifLtRi6 (rd : RegNum) (imm6 : BitVec 6) : EncodesInRow.Statement (.ifLtRi6 rd imm6) :=
  fun _ => ri6Word_masked 0b1100#4 rd imm6

theorem EncodesInRow.ifGeRr (rd : RegNum) (rs : RegNum) : EncodesInRow.Statement (.ifGeRr rd rs) :=
  fun _ => rrWord_masked 0b11101#5 rd rs

theorem EncodesInRow.ifGeRi6 (rd : RegNum) (imm6 : BitVec 6) : EncodesInRow.Statement (.ifGeRi6 rd imm6) :=
  fun _ => ri6Word_masked 0b1101#4 rd imm6

theorem EncodesInRow.ifUltRr (rd : RegNum) (rs : RegNum) : EncodesInRow.Statement (.ifUltRr rd rs) :=
  fun _ => rrWord_masked 0b11110#5 rd rs

theorem EncodesInRow.ifUltRi6 (rd : RegNum) (imm6 : BitVec 6) : EncodesInRow.Statement (.ifUltRi6 rd imm6) :=
  fun _ => ri6Word_masked 0b1110#4 rd imm6

theorem EncodesInRow.ifUgeRr (rd : RegNum) (rs : RegNum) : EncodesInRow.Statement (.ifUgeRr rd rs) :=
  fun _ => rrWord_masked 0b11111#5 rd rs

theorem EncodesInRow.ifUgeRi6 (rd : RegNum) (imm6 : BitVec 6) : EncodesInRow.Statement (.ifUgeRi6 rd imm6) :=
  fun _ => ri6Word_masked 0b1111#4 rd imm6

theorem EncodesInRow.reservedOp9or11 (w : Word) : EncodesInRow.Statement (.reservedOp9or11 w) :=
  fun h => eq_of_beq h

theorem EncodesInRow.reservedOp12to15 (w : Word) : EncodesInRow.Statement (.reservedOp12to15 w) :=
  fun h => eq_of_beq h

theorem EncodesInRow.reservedBit7 (w : Word) : EncodesInRow.Statement (.reservedBit7 w) :=
  fun h => eq_of_beq h

end Sys2Proof.Laws
end

