-- ==== Sys2Proof/Laws/Results.lean ====
section
/-! SUPPORT. What the shared parts of the meanings give, in the terms of the claims: the ends of instructions,
the immediates, carry and borrow, the shifts, the byte order. -/

namespace Sys2Proof.Machine

/-! ## Ends of instructions -/

/-- A result written and retired changes its register, the pc and the prefix state, and nothing else. -/
theorem writesOnly_retired (s : State) (rd : RegNum) (v : Word) :
    WritesOnly rd v s (s.setReg rd v).endPrefixState.advance :=
  ⟨by simp, fun r hr => by simp [State.reg_setReg, hr], rfl, ⟨rfl, rfl, rfl⟩, fun _ => rfl,
    ⟨rfl, rfl, rfl, fun _ => rfl⟩, rfl, rfl⟩

theorem advancesOnly_retired (s : State) : AdvancesOnly s s.endPrefixState.advance :=
  ⟨fun _ => rfl, rfl, ⟨rfl, rfl, rfl⟩, fun _ => rfl, ⟨rfl, rfl, rfl, fun _ => rfl⟩, rfl, rfl⟩

theorem jumpsOnly_jumped (s : State) (target : Word) : JumpsOnly target s (s.endPrefixState.jumpTo target) :=
  ⟨fun _ => rfl, rfl, ⟨rfl, rfl, rfl⟩, fun _ => rfl, ⟨rfl, rfl, rfl, fun _ => rfl⟩, rfl, rfl⟩

theorem callsOnly_called (s : State) (target : Word) :
    CallsOnly target s ((s.setReg 0#4 s.pcn).endPrefixState.jumpTo target) :=
  ⟨by simp, fun r hr => by simp [State.reg_setReg, hr], rfl, ⟨rfl, rfl, rfl⟩, fun _ => rfl,
    ⟨rfl, rfl, rfl, fun _ => rfl⟩, rfl, rfl⟩

theorem writesWithCarry_set (s : State) (rd : RegNum) (v : Word) (carry : Bool) :
    WritesWithCarry rd v carry s ((s.setReg rd v).setCarry carry).advance :=
  ⟨by simp, rfl, rfl, rfl, fun r hr => by simp [State.reg_setReg, hr], rfl, fun _ => rfl,
    ⟨rfl, rfl, rfl, fun _ => rfl⟩, rfl, rfl⟩

/-- `skipUnless` tests the proposition its Bool decides. -/
theorem testsOnly_skipUnless (s : State) {cond : Bool} {P : Prop} (h : cond = true ↔ P) :
    ∃ t, skipUnless s cond = .next t ∧ TestsOnly P s t := by
  refine ⟨_, skipUnless_eq s cond, ?_⟩
  cases cond
  · exact ⟨fun hp => absurd (h.mpr hp) Bool.false_ne_true, fun _ => rfl, fun _ => rfl, rfl, ⟨rfl, rfl, rfl⟩, fun _ => rfl,
      ⟨rfl, rfl, rfl, fun _ => rfl⟩, rfl⟩
  · exact ⟨fun _ => rfl, fun hp => absurd (h.mp rfl) hp, fun _ => rfl, rfl, ⟨rfl, rfl, rfl⟩, fun _ => rfl,
      ⟨rfl, rfl, rfl, fun _ => rfl⟩, rfl⟩

/-! ## Immediates (R91) -/

theorem effImm_prefixed {s : State} (h : s.immv = true) (low4 : BitVec 4) (native : Word) :
    effImm s low4 native = s.imm12 ++ low4 := by
  simp [effImm, h]

theorem effImm_native {s : State} (h : s.immv = false) (low4 : BitVec 4) (native : Word) :
    effImm s low4 native = native := by
  simp [effImm, h]

theorem toNat_imm12_append (x : BitVec 12) (low4 : BitVec 4) : (x ++ low4).toNat = 16 * x.toNat + low4.toNat := by
  rw [BitVec.toNat_append, ← Nat.shiftLeft_add_eq_or_of_lt low4.isLt, Nat.shiftLeft_eq]
  omega

/-! ## Carry and borrow (R171, R180) -/

theorem cin_eq (s : State) : s.cin = if s.uc = true ∧ s.c = true then 1 else 0 := by
  cases hu : s.uc <;> cases hc : s.c <;> simp [State.cin, hu, hc]

theorem carryOut_exactSum (a b : Word) (cin : Nat) :
    carryOut (exactSum a b cin) = decide (65535 < a.toNat + b.toNat + cin) :=
  decide_eq_decide.mpr (by simp only [exactSum]; omega)

theorem borrowOut_exactDiff (a b : Word) (cin : Nat) :
    borrowOut (exactDiff a b cin) = decide (a.toNat < b.toNat + cin) :=
  decide_eq_decide.mpr (by simp only [exactDiff]; omega)

/-! ## Shifts (R198, R200, R202) -/

theorem shiftLeft_eq_mul (a n : Word) :
    shiftLeft a n = if n.toNat ≤ 15 then BitVec.ofNat 16 (a.toNat * 2 ^ n.toNat) else Config.shiftOOB .shl a n := by
  unfold shiftLeft
  split
  · exact BitVec.eq_of_toNat_eq (by simp [Nat.shiftLeft_eq])
  · rfl

theorem shiftRight_eq_div (a n : Word) :
    shiftRight a n = if n.toNat ≤ 15 then BitVec.ofNat 16 (a.toNat / 2 ^ n.toNat) else Config.shiftOOB .shr a n := by
  unfold shiftRight
  split
  · apply BitVec.eq_of_toNat_eq
    have h := Nat.div_le_self a.toNat (2 ^ n.toNat)
    have ha := a.isLt
    rw [BitVec.toNat_ushiftRight, Nat.shiftRight_eq_div_pow, BitVec.toNat_ofNat, Nat.mod_eq_of_lt (by omega)]
  · rfl

theorem shiftArith_eq_div (a n : Word) :
    shiftArith a n = if n.toNat ≤ 15 then BitVec.ofInt 16 (a.toInt / 2 ^ n.toNat) else Config.shiftOOB .asr a n := by
  unfold shiftArith
  split
  · simp [BitVec.sshiftRight, Int.shiftRight_eq_div_pow]
  · rfl

/-! ## Byte order (R50) -/

/-- The word two bytes make, under either order. -/
theorem toNat_joinBytes (o : ByteOrder) (b0 b1 : Byte) :
    (o = .little ∧ (joinBytes o b0 b1).toNat = b1.toNat * 256 + b0.toNat) ∨
    (o = .big ∧ (joinBytes o b0 b1).toNat = b0.toNat * 256 + b1.toNat) := by
  have h : ∀ x y : Byte, (x ++ y).toNat = x.toNat * 256 + y.toNat := by
    intro x y
    rw [BitVec.toNat_append, ← Nat.shiftLeft_add_eq_or_of_lt y.isLt, Nat.shiftLeft_eq]
  cases o
  · exact .inl ⟨rfl, h b1 b0⟩
  · exact .inr ⟨rfl, h b0 b1⟩

end Sys2Proof.Machine
end

