-- ==== Sys2Proof/Laws/Step.lean ====
section
/-! SUPPORT. What one step can do: the inversion of `step`, from which the whole-machine rules follow. -/

namespace Sys2Proof.Machine

/-- A reserved word is never executed. -/
theorem not_reserved_of_exec {i : Instr} {s t : State} (h : exec i s = .next t) : i.isReserved = false := by
  cases i <;> first | rfl | (exact absurd h (by simp [exec, execReservedOp9or11, execReservedOp12to15, execReservedBit7]))

/-- If a step answers a next state, the core was stopped and spins, or it skipped an instruction, or it
executed one. -/
theorem step_cases {s t : State} (h : step s = .next t) :
    (s.stopped = true ∧ t = s) ∨
    (∃ w, s.stopped = false ∧ s.instrAt s.pc = some w ∧
      ((s.skip = true ∧ (decode w).isReserved = false ∧ t = skipOver (decode w) s) ∨
       (s.skip = false ∧ exec (decode w) s = .next t))) := by
  unfold step at h
  split at h
  · next hs => injection h with h; exact .inl ⟨hs, h.symm⟩
  · next hs =>
    simp only [Bool.not_eq_true] at hs
    split at h
    · exact absurd h (by simp)
    · next w hw =>
      refine .inr ⟨w, hs, hw, ?_⟩
      unfold stepInstr at h
      split at h
      · next hk =>
        simp only [Bool.and_eq_true, Bool.not_eq_true'] at hk
        injection h with h
        exact .inl ⟨hk.1, hk.2, h.symm⟩
      · next hk =>
        have hr := not_reserved_of_exec h
        simp only [hr, Bool.not_false, Bool.and_true, Bool.not_eq_true] at hk
        exact .inr ⟨hk, h⟩

/-- A core that is not stopped takes the instruction its pc names. -/
theorem step_of_fetch {s : State} {w : Word} (hs : s.stopped = false) (hw : s.instrAt s.pc = some w) :
    step s = stepInstr (decode w) s := by
  simp [step, hs, hw]

@[simp] theorem skipOver_pc (i : Instr) (s : State) : (skipOver i s).pc = s.pc + 1#16 := rfl
@[simp] theorem skipOver_skip (i : Instr) (s : State) : (skipOver i s).skip = i.isPrefix := rfl
@[simp] theorem skipOver_reg (i : Instr) (s : State) (r : RegNum) : (skipOver i s).reg r = s.reg r := rfl
@[simp] theorem skipOver_readByte (i : Instr) (s : State) (a : Word) : (skipOver i s).readByte a = s.readByte a := rfl
@[simp] theorem skipOver_instrAt (i : Instr) (s : State) (a : Word) : (skipOver i s).instrAt a = s.instrAt a := rfl

/-! ## Runs -/

theorem runFor_zero (s : State) : runFor 0 s = .next s := rfl

theorem runFor_succ_of_next {s t : State} (k : Nat) (h : step s = .next t) : runFor (k + 1) s = runFor k t := by
  simp only [runFor, h]

/-- The runs of the model are those of the host's interface. -/
theorem core_run_eq (k : Nat) (s : State) : Sys2Proof.core.run k s = runFor k s := by
  induction k generalizing s with
  | zero => rfl
  | succ k ih =>
    have hs : Sys2Proof.core.step s = step s := rfl
    simp only [runFor, Host.Core.run, hs]
    cases step s with
    | next t => exact ih t
    | fault f => rfl
    | refused r => rfl

/-- A stopped core spins for any number of steps (R132). -/
theorem runFor_of_stopped {s : State} (h : s.stopped = true) (k : Nat) : runFor k s = .next s := by
  induction k with
  | zero => rfl
  | succ k ih => exact (runFor_succ_of_next k (by simp [step, h])).trans ih

/-- A prefix instruction is no reserved word. -/
theorem not_reserved_of_isPrefix {i : Instr} (h : i.isPrefix = true) : i.isReserved = false := by
  cases i <;> first | rfl | exact absurd h Bool.false_ne_true

/-- A skipping core skips. -/
theorem step_of_skip {s : State} {w : Word} (hs : s.stopped = false) (hk : s.skip = true)
    (hw : s.instrAt s.pc = some w) (hr : (decode w).isReserved = false) : step s = .next (skipOver (decode w) s) := by
  simp [step_of_fetch hs hw, stepInstr, hk, hr]

/-- A core that is neither stopped nor skipping executes. -/
theorem step_of_exec {s : State} {w : Word} (hs : s.stopped = false) (hk : s.skip = false)
    (hw : s.instrAt s.pc = some w) : step s = exec (decode w) s := by
  simp [step_of_fetch hs hw, stepInstr, hk]

end Sys2Proof.Machine
end

