-- ==== Sys2Proof/Tests/Slice0.lean ====
section
/-! SUPPORT. The model's own tests. Words and expected results are those of spec/: the examples of the rules and
the vectors of 95_test_vectors.md (VS, VM, VB, VL, VA, VG, VK, VQ) named in each docstring. Then one witness for
the hypotheses of each obligation that has any. -/

namespace Sys2Proof.Tests

open Sys2Proof Sys2Proof.Machine

/-! ## Helpers -/

/-- The next state, if there is one. -/
def nextOf : Result → Option State
  | .next t => some t
  | .fault _ => none
  | .refused _ => none

/-- The reason of a refusal, if it is one. -/
def refusalOf : Result → Option Refusal
  | .next _ => none
  | .fault _ => none
  | .refused r => some r

/-- The reason of a fault, if it is one. -/
def faultOf : Result → Option Fault
  | .next _ => none
  | .fault f => some f
  | .refused _ => none

/-- The state after reset with these register values. -/
def withRegs (l : List (RegNum × Word)) : State := l.foldl (fun s p => s.setReg p.1 p.2) State.reset

/-- `s` with these bytes in data memory. -/
def withBytes (l : List (Word × Byte)) (s : State) : State := l.foldl (fun s p => s.writeByte p.1 p.2) s

/-- `s` with these words in program memory, from address 0. -/
def withProgram (l : List Word) (s : State) : State :=
  (l.zipIdx).foldl (fun s p => s.placeInstr (BitVec.ofNat 16 p.2) p.1) s

/-- One step of `s` with the word `w` at the pc. -/
def one (w : Word) (s : State) : Result := step (s.placeInstr s.pc w)

/-- What one step leaves in register `r` and in the pc. -/
def regPc (w : Word) (s : State) (r : RegNum) : Option (Word × Word) :=
  (nextOf (one w s)).map fun t => (t.reg r, t.pc)

/-- What one step leaves in register `r`, `C` and `UC`. -/
def regCarry (w : Word) (s : State) (r : RegNum) : Option (Word × Bool × Bool) :=
  (nextOf (one w s)).map fun t => (t.reg r, t.c, t.uc)

/-- What one step leaves in `SKIP`. -/
def skipAfter (w : Word) (s : State) : Option Bool := (nextOf (one w s)).map fun t => t.skip

/-- `s` behind an executed `addc` or `subc` with this carry out. -/
def afterCarry (b : Bool) (s : State) : State := s.setCarry b

/-! ## WellFormed: each check refuses a term -/

theorem test_illFormed_reservedOp9or11 : (Instr.reservedOp9or11 0x0020).wellFormed = false := by decide
theorem test_illFormed_reservedOp12to15 : (Instr.reservedOp12to15 0x0040).wellFormed = false := by decide
theorem test_illFormed_reservedBit7 : (Instr.reservedBit7 0x0081).wellFormed = false := by decide
theorem test_wellFormed_reserved : (Instr.reservedOp9or11 0xFF2C).wellFormed = true ∧
    (Instr.reservedOp12to15 0x003C).wellFormed = true ∧ (Instr.reservedBit7 0x00FC).wellFormed = true := by
  decide

/-! ## Decoding: words written out from the formats (R83 to R90, R106) -/

/-- R125 to R131, and the N/A fields of VS2, VS6. -/
theorem test_decode_system :
    decode 0x0000 = .nop ∧ decode 0x0004 = .rets ∧ decode 0x0008 = .error ∧ decode 0x000C = .halt ∧
    decode 0x3210 = .rcsr 3 2 ∧ decode 0x3214 = .wcsr 2 3 ∧ decode 0x123D = .imm 0x123 ∧
    decode 0x000D = .imm 0 ∧ decode 0xFFFD = .imm 0xFFF ∧ decode 0xAB00 = .nop ∧ decode 0xFF0C = .halt := by
  decide

/-- R140 to R143, VM1, VM2. -/
theorem test_decode_move :
    decode 0x3918 = .moveRr 3 9 ∧ decode 0x5791 = .moveRi8 5 121 ∧ decode 0x471C = .loadcRr 4 7 ∧
    decode 0x4109 = .loadcRi8 4 16 ∧ decode 0x5FF1 = .moveRi8 5 (-1) ∧ decode 0x5801 = .moveRi8 5 (-128) := by
  decide

/-- R150 to R154, VB2, VB6. -/
theorem test_decode_branch :
    decode 0x3020 = .jumpRr 3 ∧ decode 0xFF85 = .jumpI11 (-4) ∧ decode 0x3028 = .callRr 3 ∧
    decode 0xFFB5 = .callI11 (-3) ∧ decode 0x7FE5 = .jumpI11 1023 ∧ decode 0x0055 = .callI11 2 ∧
    decode 0x3F20 = .jumpRr 3 := by
  decide

/-- R161 to R164. -/
theorem test_decode_loadStore :
    decode 0x52F2 = .load 5 2 15 ∧ decode 0x52F6 = .store 5 2 15 ∧ decode 0x52FA = .loadb 5 2 15 ∧
    decode 0x52FE = .storeb 5 2 15 := by
  decide

/-- R172 to R179, VA1. -/
theorem test_decode_arithmetic :
    decode 0xD240 = .addRr 13 2 ∧ decode 0x3803 = .addRi6 3 (-32) ∧ decode 0x1544 = .subRr 1 5 ∧
    decode 0x3AC7 = .subRi6 3 0b101011 ∧ decode 0xD248 = .addcRr 13 2 ∧ decode 0x33CB = .addcRi6 3 15 ∧
    decode 0xD24C = .subcRr 13 2 ∧ decode 0x33CF = .subcRi6 3 15 := by
  decide

/-- R191 to R196, VG5. -/
theorem test_decode_logic :
    decode 0x1250 = .xorRr 1 2 ∧ decode 0x1FD3 = .xorRi6 1 (-1) ∧ decode 0x1254 = .andRr 1 2 ∧
    decode 0x1C17 = .andRi6 1 (-16) ∧ decode 0x1258 = .orRr 1 2 ∧ decode 0x10DB = .orRi6 1 3 := by
  decide

/-- R198 to R203. -/
theorem test_decode_shift :
    decode 0x125C = .shlRr 1 2 ∧ decode 0x121F = .shlRi6 1 8 ∧ decode 0x1260 = .shrRr 1 2 ∧
    decode 0x1123 = .shrRi6 1 4 ∧ decode 0x1264 = .asrRr 1 2 ∧ decode 0x1227 = .asrRi6 1 8 := by
  decide

/-- R212 to R223. -/
theorem test_decode_if :
    decode 0x1268 = .ifEqRr 1 2 ∧ decode 0x10EB = .ifEqRi6 1 3 ∧ decode 0x126C = .ifNeRr 1 2 ∧
    decode 0x202F = .ifNeRi6 2 0 ∧ decode 0x1270 = .ifLtRr 1 2 ∧ decode 0x1FF3 = .ifLtRi6 1 (-1) ∧
    decode 0x1274 = .ifGeRr 1 2 ∧ decode 0x1037 = .ifGeRi6 1 0 ∧ decode 0x1278 = .ifUltRr 1 2 ∧
    decode 0x1FFB = .ifUltRi6 1 (-1) ∧ decode 0x127C = .ifUgeRr 1 2 ∧ decode 0x113F = .ifUgeRi6 1 4 := by
  decide

/-- R97 to R99, VS3 to VS5. -/
theorem test_decode_reserved :
    decode 0x0024 = .reservedOp9or11 0x0024 ∧ decode 0x002C = .reservedOp9or11 0x002C ∧
    decode 0x0030 = .reservedOp12to15 0x0030 ∧ decode 0x003C = .reservedOp12to15 0x003C ∧
    decode 0x0080 = .reservedBit7 0x0080 := by
  decide

/-- R83 bit by bit: `add r13, r2` is 1101 0010 0 10000 00. -/
theorem test_decode_bits : decode 0b1101001001000000 = .addRr 13 2 ∧ decode 0b0011001111000011 = .addRi6 3 15 ∧
    decode 0b0101011110010001 = .moveRi8 5 121 ∧ decode 0b0101001011110110 = .store 5 2 15 ∧
    decode 0b0000000001010101 = .callI11 2 ∧ decode 0b0001001000111101 = .imm 0x123 := by
  decide

/-- Encoding writes N/A fields and bit 7 as 0 (R99, R100). -/
theorem test_encode : encode (.jumpRr 3) = 0x3020 ∧ encode .halt = 0x000C ∧ encode (.subRi6 3 0b101011) = 0x3AC7 ∧
    encode (.store 5 2 15) = 0x52F6 ∧ encode (.loadcRi8 4 16) = 0x4109 := by
  decide

theorem test_decodeTableWord : decodeTableWord 16 0xD240 = some (.addRr 13 2) := by decide

/-! ## One step of each instruction -/

/-- R125: `nop` at pc 7. -/
theorem test_nop : (nextOf (one 0x0000 (State.reset.jumpTo 7))).map (fun t => t.pc) = some 8 := by decide
/-- R126, VS7. -/
theorem test_rets : refusalOf (one 0x0004 State.reset) = some .retsNoSemantics := by decide
/-- R127. -/
theorem test_error :
    (nextOf (one 0x0008 (State.reset.jumpTo 3))).map (fun t => (t.error, t.halt, t.pc)) = some (true, false, 3) :=
  by decide
/-- R128. -/
theorem test_halt :
    (nextOf (one 0x000C (State.reset.jumpTo 6))).map (fun t => (t.error, t.halt, t.pc)) = some (false, true, 6) :=
  by decide
/-- R129: the value is the open one. -/
theorem test_rcsr : regPc 0x3210 State.reset 3 = some (Config.csrRead 0 2, 1) := rfl
/-- R130: no register changes. -/
theorem test_wcsr : regPc 0x3214 (withRegs [(3, 0x0005)]) 3 = some (5, 1) := rfl
/-- R131. -/
theorem test_imm :
    (nextOf (one 0x123D State.reset)).map (fun t => (t.imm12, t.immv, t.pc)) = some (0x123, true, 1) :=
  by decide
/-- R140. -/
theorem test_moveRr : regPc 0x3918 (withRegs [(9, 0xBEEF)]) 3 = some (0xBEEF, 1) := by decide
/-- VM2. -/
theorem test_moveRi8 : regPc 0x5801 State.reset 5 = some (0xFF80, 1) := by decide
/-- VM5: after `imm` only the low four bits of the field count. -/
theorem test_moveRi8_imm : regPc 0x1F41 (State.reset.setImm 0x123) 1 = some (0x1234, 1) := by decide
/-- VM7. -/
theorem test_loadcRr : regPc 0x471C (withRegs [(7, 0x0010)]) 4 = some (Config.constMem 0x0010, 1) := rfl
/-- VM8. -/
theorem test_loadcRi8 : regPc 0x4109 State.reset 4 = some (Config.constMem 0x0010, 1) := rfl
/-- VB6. -/
theorem test_jumpRr : regPc 0x3F20 (withRegs [(3, 0x1234)]) 3 = some (0x1234, 0x1234) := by decide
/-- VB3. -/
theorem test_jumpI11 : (nextOf (one 0x8005 (State.reset.jumpTo 0x10))).map (fun t => t.pc) = some 0xFC11 := by decide
/-- VB9. -/
theorem test_jumpI11_imm :
    (nextOf (one 0x0005 ((State.reset.setImm 0x100).jumpTo 1))).map (fun t => t.pc) = some 0x1002 :=
  by decide
/-- VB7. -/
theorem test_callI11 : regPc 0xFFB5 (State.reset.jumpTo 2) 0 = some (3, 0) := by decide
/-- VB11. -/
theorem test_callI11_imm : regPc 0x0075 ((State.reset.setImm 0x100).jumpTo 0x41) 0 = some (0x42, 0x1045) := by decide
/-- R154. -/
theorem test_callRr : regPc 0x3028 ((withRegs [(3, 0x0200)]).jumpTo 0x10) 0 = some (0x11, 0x200) := by decide
/-- VB8: the target is read before `r0` is written. -/
theorem test_callRr_r0 : regPc 0x0028 ((withRegs [(0, 0x0003)]).jumpTo 1) 0 = some (2, 3) := by decide
/-- R161, section 1.1: the address is (0101 & FFFE) + 2 * 15. -/
theorem test_load :
    regPc 0x52F2 (withBytes [(0x11E, 0x34), (0x11F, 0x12)] (withRegs [(2, 0x0101)])) 5 =
      some (joinBytes Config.byteOrder 0x34 0x12, 1) :=
  rfl
/-- Section 1.1: r5 = 1234 (L) / 3412 (B). -/
theorem test_load_bytes : joinBytes .little 0x34 0x12 = 0x1234 ∧ joinBytes .big 0x34 0x12 = 0x3412 := by decide
/-- VL5. -/
theorem test_load_unwritten : faultOf (one 0x52F2 (withRegs [(2, 0x0100)])) = some .noByte := by decide
/-- R162, section 1.1: exactly the bytes at 011E and 011F are written. -/
theorem test_store :
    (nextOf (one 0x52F6 (withRegs [(2, 0x0101), (5, 0xABCD)]))).map (fun t => t.dmem.map Prod.fst) = some [0x11E, 0x11F] :=
  by decide
/-- Section 1.1: m[011E] = CD, m[011F] = AB (L), the other way round (B). -/
theorem test_store_bytes :
    evenByte .little 0xABCD = 0xCD ∧ oddByte .little 0xABCD = 0xAB ∧ evenByte .big 0xABCD = 0xAB ∧
      oddByte .big 0xABCD = 0xCD :=
  by decide
/-- VL3: the address wraps. -/
theorem test_loadb : regPc 0x52FA (withBytes [(0x000E, 0x05)] (withRegs [(2, 0xFFFF)])) 5 = some (5, 1) := by decide
/-- Section 1.1. -/
theorem test_loadb_sign :
    regPc 0x52FA (withBytes [(0x110, 0x80)] (withRegs [(2, 0x0101)])) 5 = some (0xFF80, 1) :=
  by decide
/-- Section 1.1: the other byte of the word is unchanged. -/
theorem test_storeb :
    (nextOf (one 0x52FE (withBytes [(0x111, 0x77)] (withRegs [(2, 0x0101), (5, 0xABCD)])))).map (fun t => t.dmem) =
      some [(0x110, 0xCD), (0x111, 0x77)] :=
  by decide
/-- VA10: the carry in is added, and cleared. -/
theorem test_addRr :
    regCarry 0xD240 (afterCarry true (withRegs [(13, 0x0005), (2, 0x0006)])) 13 = some (0x000C, false, false) :=
  by decide
/-- VA1. -/
theorem test_addRi6 : regCarry 0x3803 (withRegs [(3, 0x0010)]) 3 = some (0xFFF0, false, false) := by decide
/-- VA12. -/
theorem test_subRr :
    regCarry 0x1544 (afterCarry true (withRegs [(1, 0x000A), (5, 0x0003)])) 1 = some (6, false, false) :=
  by decide
/-- Section 1.1, `imm` then `sub r3, 43`. -/
theorem test_subRi6 : regCarry 0x3AC7 ((withRegs [(3, 0x0064)]).setImm 2) 3 = some (0x39, false, false) := by decide
/-- VA8. -/
theorem test_addcRr :
    regCarry 0xD248 (afterCarry true (withRegs [(13, 0xFFFF), (2, 0xFFFF)])) 13 = some (0xFFFF, true, true) :=
  by decide
/-- VA6: signed overflow is not carry. -/
theorem test_addcRr_signed :
    regCarry 0xD248 (withRegs [(13, 0x7FFF), (2, 0x0001)]) 13 = some (0x8000, false, true) :=
  by decide
/-- VA20, its second step. -/
theorem test_addcRi6 : regCarry 0x33CB ((withRegs [(3, 0x0002)]).setImm 0xFFF) 3 = some (1, true, true) := by decide
/-- VA17. -/
theorem test_subcRr :
    regCarry 0xD24C (afterCarry true (withRegs [(13, 0x0000), (2, 0xFFFF)])) 13 = some (0, true, true) :=
  by decide
/-- VA15. -/
theorem test_subcRi6 : regCarry 0x3FCF (withRegs [(3, 0x0000)]) 3 = some (1, true, true) := by decide
/-- VG1. -/
theorem test_xorRr : regPc 0x1250 (withRegs [(1, 0xFF00), (2, 0x0FF0)]) 1 = some (0xF0F0, 1) := by decide
/-- R192. -/
theorem test_xorRi6 : regPc 0x1FD3 (withRegs [(1, 0x1234)]) 1 = some (0xEDCB, 1) := by decide
/-- VG3. -/
theorem test_andRr : regPc 0x1254 (withRegs [(1, 0xFF00), (2, 0x0FF0)]) 1 = some (0x0F00, 1) := by decide
/-- VG5. -/
theorem test_andRi6 : regPc 0x1C17 (withRegs [(1, 0xABCD)]) 1 = some (0xABC0, 1) := by decide
/-- VG7. -/
theorem test_orRr : regPc 0x1258 (withRegs [(1, 0xFF00), (2, 0x0FF0)]) 1 = some (0xFFF0, 1) := by decide
/-- VG9. -/
theorem test_orRi6 : regPc 0x181B (withRegs [(1, 0x0001)]) 1 = some (0xFFE1, 1) := by decide
/-- VG12. -/
theorem test_shlRr : regPc 0x125C (withRegs [(1, 0x0003), (2, 0x000F)]) 1 = some (0x8000, 1) := by decide
/-- VG14: the open value. -/
theorem test_shlRr_16 :
    regPc 0x125C (withRegs [(1, 0x0001), (2, 0x0010)]) 1 = some (Config.shiftOOB .shl 1 16, 1) :=
  rfl
/-- R199. -/
theorem test_shlRi6 : regPc 0x121F (withRegs [(1, 0x1280)]) 1 = some (0x8000, 1) := by decide
/-- VG15: amount FFFF. -/
theorem test_shlRi6_negative :
    regPc 0x1FDF (withRegs [(1, 0x0001)]) 1 = some (Config.shiftOOB .shl 1 0xFFFF, 1) :=
  rfl
/-- VG16. -/
theorem test_shrRr : regPc 0x1260 (withRegs [(1, 0x8234), (2, 0x0004)]) 1 = some (0x0823, 1) := by decide
/-- VG17. -/
theorem test_shrRi6 : regPc 0x1123 (withRegs [(1, 0xF00F)]) 1 = some (0x0F00, 1) := by decide
/-- VG20. -/
theorem test_asrRr : regPc 0x1264 (withRegs [(1, 0x8234), (2, 0x0004)]) 1 = some (0xF823, 1) := by decide
/-- VG25. -/
theorem test_asrRi6 : regPc 0x1227 (withRegs [(1, 0x8000)]) 1 = some (0xFF80, 1) := by decide
/-- The table of section 2.7. -/
theorem test_ifEqRr :
    skipAfter 0x1268 (withRegs [(1, 0x0005), (2, 0x0005)]) = some false ∧
      skipAfter 0x1268 (withRegs [(1, 0x0005), (2, 0x0006)]) = some true :=
  by decide
/-- The table of section 2.7. -/
theorem test_ifNeRr :
    skipAfter 0x126C (withRegs [(1, 0x0005), (2, 0x0005)]) = some true ∧
      skipAfter 0x126C (withRegs [(1, 0x0005), (2, 0x0006)]) = some false :=
  by decide
/-- The table of section 2.7. -/
theorem test_ifLtRr :
    skipAfter 0x1270 (withRegs [(1, 0x7FFF), (2, 0x8000)]) = some true ∧
      skipAfter 0x1270 (withRegs [(1, 0x8000), (2, 0x8000)]) = some true :=
  by decide
/-- The table of section 2.7. -/
theorem test_ifGeRr :
    skipAfter 0x1274 (withRegs [(1, 0x7FFF), (2, 0x8000)]) = some false ∧
      skipAfter 0x1274 (withRegs [(1, 0x8000), (2, 0x8000)]) = some false :=
  by decide
/-- The table of section 2.7. -/
theorem test_ifUltRr :
    skipAfter 0x1278 (withRegs [(1, 0xFFFF), (2, 0x0000)]) = some true ∧
      skipAfter 0x1278 (withRegs [(1, 0x8000), (2, 0x8000)]) = some true :=
  by decide
/-- The table of section 2.7. -/
theorem test_ifUgeRr :
    skipAfter 0x127C (withRegs [(1, 0xFFFF), (2, 0x0000)]) = some false ∧
      skipAfter 0x127C (withRegs [(1, 0x8000), (2, 0x8000)]) = some false :=
  by decide
/-- VK1. -/
theorem test_ifEqRi6 :
    skipAfter 0x10EB (withRegs [(1, 0x0003)]) = some false ∧
      skipAfter 0x10EB (withRegs [(1, 0x0004)]) = some true :=
  by decide
/-- VK2. -/
theorem test_ifNeRi6 :
    skipAfter 0x202F (withRegs [(2, 0x0000)]) = some true ∧
      skipAfter 0x202F (withRegs [(2, 0x0001)]) = some false :=
  by decide
/-- VK3. -/
theorem test_ifLtRi6 :
    skipAfter 0x1FF3 (withRegs [(1, 0x8000)]) = some false ∧
      skipAfter 0x1FF3 (withRegs [(1, 0xFFFF)]) = some true :=
  by decide
/-- VK4. -/
theorem test_ifGeRi6 :
    skipAfter 0x1037 (withRegs [(1, 0xFFFF)]) = some true ∧
      skipAfter 0x1037 (withRegs [(1, 0x0000)]) = some false :=
  by decide
/-- VK5. -/
theorem test_ifUltRi6 :
    skipAfter 0x1FFB (withRegs [(1, 0xFFFE)]) = some false ∧
      skipAfter 0x1FFB (withRegs [(1, 0xFFFF)]) = some true :=
  by decide
/-- VK6. -/
theorem test_ifUgeRi6 :
    skipAfter 0x113F (withRegs [(1, 0x0004)]) = some false ∧
      skipAfter 0x113F (withRegs [(1, 0x0003)]) = some true :=
  by decide
/-- VS3 to VS5, VQ10: refused, executed or skipped. -/
theorem test_reserved :
    refusalOf (one 0x0024 State.reset) = some .reservedEncoding ∧
      refusalOf (one 0x0034 State.reset) = some .reservedEncoding ∧
      refusalOf (one 0x0080 (State.reset.setSkip true)) = some .reservedBit7 :=
  by decide
/-- VQ2, steps 2 and 5; VQ9, `rets` skipped. -/
theorem test_skip :
    (nextOf (one 0x3448 (State.reset.setSkip true))).map (fun t => (t.skip, t.uc, t.pc)) = some (true, false, 1) ∧
      skipAfter 0x3103 (State.reset.setSkip true) = some false ∧
      skipAfter 0x0004 (State.reset.setSkip true) = some false :=
  by decide
/-- VS9, VS10, VA22, VA23: the sequences that are refused. -/
theorem test_sequences :
    refusalOf (one 0x123D (State.reset.setImm 0x123)) = some .immAfterImm ∧
      refusalOf (one 0x0000 (State.reset.setImm 0x123)) = some .immBeforeRr ∧
      refusalOf (one 0x123D (afterCarry false State.reset)) = some .immAfterCarry ∧
      refusalOf (one 0x000C (afterCarry false State.reset)) = some .carryBeforeOther :=
  by decide
/-- U17: no program is placed at reset. -/
theorem test_fetch : faultOf (step State.reset) = some .noInstruction := by decide
/-- The word placed is the one that runs. -/
theorem test_withFetchWord :
    (nextOf (step (State.reset.withFetchWord 16 0x5791))).map (fun t => t.reg 5) = some 0x0079 :=
  by decide
/-- Log 1: a register nothing has written reads 0. -/
theorem test_unwrittenRegister : regPc 0x3918 State.reset 3 = some (0, 1) := by decide

/-! ## Witnesses: the hypotheses of each obligation met by concrete states and operands -/

theorem noPrefix_reset : NoPrefix State.reset := ⟨rfl, rfl⟩

/-- A reset core with one word at the pc. -/
def with1 (w : Word) : State := State.reset.placeInstr 0 w

theorem witness_DecodeOfEncodeIsIdentity :
    (Instr.addRi6 15 63).wellFormed = true ∧ (Instr.reservedBit7 0xFFFC).wellFormed = true := by decide

theorem witness_EncodeOfDecodeDropsOnlyNaFields :
    0xAB00#16 &&& (decode 0x0000#16).readBits = 0x0000#16 &&& (decode 0x0000#16).readBits := by decide

theorem witness_EveryWordLiesInOneRow : 0xD240#16 &&& (Instr.addRr 0 0).row.1 = (Instr.addRr 0 0).row.2 := by decide

theorem witness_StepExecutesTheDecodedInstruction : (with1 0x5791).stopped = false ∧ (with1 0x5791).skip = false ∧
    (with1 0x5791).instrAt (with1 0x5791).pc = some 0x5791#16 := by decide

theorem witness_EveryPcValueNamesAnInstruction : State.reset.stopped = false ∧ State.reset.skip = false := by decide

theorem witness_FetchOutsideProgramFaults :
    State.reset.stopped = false ∧ State.reset.instrAt State.reset.pc = none := by decide

/-- A skipped prefix instruction, and a skipped regular one. -/
theorem witness_SkippedInstructionActsLikeNop :
    ((with1 0x123D).setSkip true).stopped = false ∧ ((with1 0x123D).setSkip true).skip = true ∧
    ((with1 0x123D).setSkip true).instrAt 0 = some 0x123D#16 ∧ (decode 0x123D#16).isReserved = false ∧
    ((with1 0x000C).setSkip true).instrAt 0 = some 0x000C#16 ∧ (decode 0x000C#16).isReserved = false := by decide

theorem witness_ReservedWordsAreRefused :
    (with1 0x002C).stopped = false ∧ (with1 0x002C).instrAt (with1 0x002C).pc = some 0x002C#16 ∧
    0x002C#16 &&& 0x00F7#16 = 0x0024#16 ∧ 0x003C#16 &&& 0x00F3#16 = 0x0030#16 ∧
    0xFFFC#16 &&& 0x0083#16 = 0x0080#16 := by decide

theorem witness_RetsAndReservedRefuse : NoPrefix State.reset := noPrefix_reset

/-- Each clause: `imm`; `addc` and `subc` in both forms, at the largest result without a carry and the least with one;
`halt`, `error`; and `nop` all answer next states. -/
theorem witness_PrefixStateAfterExecution :
    exec (.imm 0xFFF) State.reset = .next (State.reset.setImm 0xFFF).advance ∧
    (nextOf (exec (.addcRr 13 2) (withRegs [(13, 0xFFFE), (2, 1)]))).map State.c = some false ∧
    (nextOf (exec (.addcRi6 13 1) (withRegs [(13, 0xFFFF)]))).map State.c = some true ∧
    (nextOf (exec (.subcRr 13 2) (withRegs [(13, 5), (2, 5)]))).map State.c = some false ∧
    (nextOf (exec (.subcRi6 13 1) State.reset)).map State.c = some true ∧
    (nextOf (exec .halt State.reset)).isSome = true ∧ (nextOf (exec .error State.reset)).isSome = true ∧
    (nextOf (exec .nop State.reset)).isSome = true :=
  ⟨rfl, by decide, by decide, by decide, by decide, by decide, by decide, by decide⟩

/-- Each of the four sequences. -/
theorem witness_UndefinedPrefixSequencesAreRefused :
    (State.reset.setImm 0).immv = true ∧ (Instr.imm 0).format = .i12 ∧ Instr.nop.format = .rr ∧
    (State.reset.setCarry false).uc = true ∧ (State.reset.setCarry false).immv = false ∧
    (Instr.moveRi8 1 0).format ≠ .i12 ∧ (Instr.moveRi8 1 0).usesCarry = false ∧
    (Instr.moveRi8 1 0).isReserved = false := by decide

theorem witness_NothingElseIsRefused : exec .rets State.reset = .refused .retsNoSemantics := rfl

theorem witness_OnlyLoadsOfUnwrittenBytesFault : exec (.loadb 5 2 15) State.reset = .fault .noByte := rfl

theorem witness_ResetClearsFlagsAndStartsAtZero : ∃ s t, t = State.reset ∨ t = resetEvent s :=
  ⟨State.reset, State.reset, .inl rfl⟩

theorem witness_StepKeepsTheInvariant : Inv (with1 0x0000) ∧ (nextOf (step (with1 0x0000))).isSome = true :=
  ⟨⟨fun h => absurd h (by decide), fun h => absurd h.1 (by decide), fun h => absurd h.1 (by decide), fun _ => rfl,
    by decide, by decide⟩, by decide⟩

theorem witness_HaltLine : NoPrefix State.reset ∧ (with1 0x000C).halt = false ∧
    (nextOf (step (with1 0x000C))).map State.halt = some true ∧ State.reset.assertHalt.halt = true :=
  ⟨noPrefix_reset, by decide, by decide, rfl⟩

theorem witness_ErrorLine : NoPrefix State.reset ∧ (with1 0x0008).error = false ∧
    (nextOf (step (with1 0x0008))).map State.error = some true ∧ State.reset.assertError.error = true :=
  ⟨noPrefix_reset, by decide, by decide, rfl⟩

theorem witness_RegistersChangeOnlyAsDestinations :
    ((nextOf (step (with1 0x5791))).map fun t => decide (t.reg 5 ≠ (with1 0x5791).reg 5)) = some true := by decide

theorem witness_DataChangesOnlyByStores :
    ((nextOf (step (with1 0x520E))).map fun t => decide (t.readByte 0 ≠ (with1 0x520E).readByte 0)) = some true := by
  decide

theorem witness_ProgramTextNeverChanges : (nextOf (step (with1 0x520E))).isSome = true := by decide

/-- The instruction a step executes is the one its word decodes to. -/
theorem decode_of_executes {s : State} {i : Instr} {w : Word} (h : Executes s i) (hw : s.instrAt s.pc = some w) :
    decode w = i := by
  obtain ⟨-, -, w', hw', hd⟩ := h
  rw [hw] at hw'
  injection hw' with hw'
  exact hw' ▸ hd

theorem witness_CsrFileChangesOnlyByCsrInstructions : (nextOf (step (with1 0x0000))).isSome = true ∧
    ∀ rd n, ¬ Executes (with1 0x0000) (.rcsr rd n) ∧ ¬ Executes (with1 0x0000) (.wcsr n rd) :=
  ⟨by decide, fun _ _ => ⟨fun h => Instr.noConfusion (decode_of_executes (w := 0x0000#16) h (by decide)),
    fun h => Instr.noConfusion (decode_of_executes (w := 0x0000#16) h (by decide))⟩⟩

/-- At the top of the address space, and `halt`. -/
theorem witness_PcAdvancesByOneInstruction :
    ((State.reset.jumpTo 0xFFFF).placeInstr 0xFFFF 0x5791).instrAt 0xFFFF = some 0x5791#16 ∧
    (nextOf (step ((State.reset.jumpTo 0xFFFF).placeInstr 0xFFFF 0x5791))).map State.pc = some 0x0000#16 ∧
    decode 0x5791#16 = .moveRi8 5 121 ∧ decode 0x000C#16 = .halt ∧ (with1 0x000C).skip = false ∧
    (nextOf (step (with1 0x000C))).map State.pc = some 0x0000#16 := by decide

theorem witness_OnlyIfSetsSkip : (with1 0x126C).skip = false ∧ skipAfter 0x126C State.reset = some true := by decide

/-- A prefix instruction; a false `if.cc`; and any other instruction. -/
theorem witness_InterruptsWaitForPrefixAndSkip :
    (decode 0x123D#16).isPrefix = true ∧ (nextOf (step (with1 0x123D))).isSome = true ∧
    decode 0x126C#16 = .ifNeRr 1 2 ∧ skipAfter 0x126C State.reset = some true ∧
    (decode 0x5791#16).isPrefix = false ∧
    (nextOf (step (with1 0x5791))).map (fun t => (t.skip, t.stopped)) = some (false, false) := by decide

/-- The highest word of data memory, its two bytes written. -/
theorem witness_WordAccessesAreAligned : State.reset.uc = false ∧ wordAddr (withRegs [(2, 0xFFFF)]) 2 0 = 0xFFFE#16 ∧
    (withBytes [(0xFFFE, 1), (0xFFFF, 2)] (withRegs [(2, 0xFFFF)])).readByte 0xFFFE ≠ none ∧
    (withBytes [(0xFFFE, 1), (0xFFFF, 2)] (withRegs [(2, 0xFFFF)])).readByte 0xFFFF ≠ none := by decide

theorem witness_ByteAccessesUseTheAddressAsItIs : State.reset.uc = false ∧
    (withBytes [(0xFFFF, 0x80)] (withRegs [(2, 0xFFFF)])).readByte (byteAddr (withRegs [(2, 0xFFFF)]) 2 0) =
      some 0x80#8 := by decide

theorem witness_ImmediatesUnderAPrefix : (State.reset.setImm 0xFFF).immv = true := rfl

theorem witness_NativeImmediates : State.reset.immv = false := rfl

theorem witness_NopAndImm : NoPrefix State.reset := noPrefix_reset

theorem witness_HaltAndErrorStopInPlace : NoPrefix State.reset := noPrefix_reset

theorem witness_CsrInstructions : NoPrefix State.reset := noPrefix_reset

/-- With and without a pending `imm`. -/
theorem witness_MoveResults : NoPrefix State.reset ∧ (State.reset.setImm 0xFFF).uc = false := ⟨noPrefix_reset, rfl⟩

theorem witness_LoadcResults : NoPrefix State.reset ∧ (State.reset.setImm 0xFFF).uc = false := ⟨noPrefix_reset, rfl⟩

theorem witness_JumpResults : NoPrefix State.reset ∧ (State.reset.setImm 0xFFF).uc = false := ⟨noPrefix_reset, rfl⟩

theorem witness_CallResults : NoPrefix State.reset ∧ (State.reset.setImm 0xFFF).uc = false := ⟨noPrefix_reset, rfl⟩

theorem witness_ReturnResumesAfterTheCall :
    exec (.callI11 2) State.reset =
      .next ((State.reset.setReg 0 State.reset.pcn).endPrefixState.jumpTo (relTarget State.reset 2)) ∧
    NoPrefix (withRegs [(0, 1)]) ∧ (withRegs [(0, 1)]).reg 0 = (State.reset.setReg 0 State.reset.pcn).reg 0 :=
  ⟨rfl, ⟨rfl, rfl⟩, by decide⟩

/-- The highest word of data memory: both bytes there, and only the first. -/
theorem witness_LoadResult : (withRegs [(2, 0xFFFE)]).uc = false ∧ wordAddr (withRegs [(2, 0xFFFE)]) 2 0 = 0xFFFE#16 ∧
    (withBytes [(0xFFFE, 1), (0xFFFF, 2)] (withRegs [(2, 0xFFFE)])).readByte 0xFFFE = some 1#8 ∧
    (withBytes [(0xFFFE, 1), (0xFFFF, 2)] (withRegs [(2, 0xFFFE)])).readByte (0xFFFE + 1) = some 2#8 ∧
    (withBytes [(0xFFFE, 1)] (withRegs [(2, 0xFFFE)])).readByte (0xFFFE + 1) = none := by decide

theorem witness_StoreResult : (State.reset.setImm 0xFFF).uc = false := rfl

theorem witness_LoadbResult : (withRegs [(2, 0xFFFF)]).uc = false ∧ byteAddr (withRegs [(2, 0xFFFF)]) 2 0 = 0xFFFF#16 ∧
    (withBytes [(0xFFFF, 0x80)] (withRegs [(2, 0xFFFF)])).readByte 0xFFFF = some 0x80#8 ∧
    (withRegs [(2, 0xFFFF)]).readByte 0xFFFF = none := by decide

theorem witness_StorebResult : (State.reset.setImm 0xFFF).uc = false := rfl

/-- `store [r2, 0], r5` with the odd base 0041, a `nop`, and the same word named as `[r3, 1]`. -/
def stored : State :=
  ((withProgram [0x5206, 0x0000] (withRegs [(2, 0x41), (3, 0x3E), (5, 0xABCD)])).writeWord 0x40 0xABCD).advance

theorem witness_LoadReturnsTheLatestStore :
    exec (.store 5 2 0) (withProgram [0x5206, 0x0000] (withRegs [(2, 0x41), (3, 0x3E), (5, 0xABCD)])) = .next stored ∧
    runFor 1 stored = .next stored.advance ∧
    (∀ j w, j < 1 → runFor j stored = .next w → ¬ StoresAt 0x40 w ∧ ¬ StoresAt (0x40 + 1) w) ∧
    stored.advance.uc = false ∧
    wordAddr (withProgram [0x5206, 0x0000] (withRegs [(2, 0x41), (3, 0x3E), (5, 0xABCD)])) 2 0 = 0x40 ∧
    wordAddr stored.advance 3 1 = 0x40 := by
  refine ⟨rfl, rfl, ?_, rfl, by decide, by decide⟩
  intro j w hj hw
  obtain rfl : j = 0 := by omega
  injection hw with hw
  subst hw
  have hn : ∀ a, ¬ StoresAt a stored := by
    rintro a ⟨rd, rs, imm4, ⟨h, -⟩ | ⟨h, -⟩⟩ <;>
      exact Instr.noConfusion (decode_of_executes (w := 0x0000#16) h (by decide))
  exact ⟨hn _, hn _⟩

/-- Without a carry, and with one. -/
theorem witness_AddAndSubResults : State.reset.immv = false ∧ (State.reset.setCarry true).immv = false ∧
    (0 : Nat) = (if State.reset.uc = true ∧ State.reset.c = true then 1 else 0) ∧
    (1 : Nat) = (if (State.reset.setCarry true).uc = true ∧ (State.reset.setCarry true).c = true then 1 else 0) := by
  decide

theorem witness_AddcAndSubcResults : State.reset.immv = false ∧ (State.reset.setCarry true).immv = false ∧
    (0 : Nat) = (if State.reset.uc = true ∧ State.reset.c = true then 1 else 0) ∧
    (1 : Nat) = (if (State.reset.setCarry true).uc = true ∧ (State.reset.setCarry true).c = true then 1 else 0) := by
  decide

/-- The spec's own chain, `addc r1, r5; addc r2, r6; addc r3, r7; add r4, r8`. -/
def specPairs : List (RegNum × RegNum) := [(1, 5), (2, 6), (3, 7), (4, 8)]

/-- The chain that doubles a number of two words. -/
def doublingPairs : List (RegNum × RegNum) := [(1, 1), (2, 2)]

theorem witness_AddcChainAddsMultiWordNumbers : specPairs ≠ [] ∧ (specPairs.map Prod.fst).Nodup ∧
    specPairs.Pairwise (fun earlier later => later.2 ≠ earlier.1) ∧ doublingPairs ≠ [] ∧
    (doublingPairs.map Prod.fst).Nodup ∧ doublingPairs.Pairwise (fun earlier later => later.2 ≠ earlier.1) ∧
    NoPrefix State.reset :=
  ⟨by decide, by decide, by simp [specPairs], by decide, by decide, by simp [doublingPairs], noPrefix_reset⟩

theorem witness_SubcChainSubtractsMultiWordNumbers : specPairs ≠ [] ∧ (specPairs.map Prod.fst).Nodup ∧
    specPairs.Pairwise (fun earlier later => later.2 ≠ earlier.1) ∧ NoPrefix State.reset :=
  ⟨by decide, by decide, by simp [specPairs], noPrefix_reset⟩

theorem witness_LogicResults : NoPrefix State.reset ∧ (State.reset.setImm 0xFFF).uc = false := ⟨noPrefix_reset, rfl⟩

/-- The largest defined amount, and the least open one. -/
theorem witness_ShiftRegisterResults : NoPrefix (withRegs [(2, 15)]) ∧ (15 : Nat) = ((withRegs [(2, 15)]).reg 2).toNat ∧
    NoPrefix (withRegs [(2, 16)]) ∧ (16 : Nat) = ((withRegs [(2, 16)]).reg 2).toNat :=
  ⟨⟨rfl, rfl⟩, by decide, ⟨rfl, rfl⟩, by decide⟩

theorem witness_ShiftImmediateResults : State.reset.uc = false ∧ (15 : Nat) = (immRi6 State.reset 15).toNat ∧
    (16 : Nat) = (immRi6 State.reset 16).toNat := by decide

theorem witness_IfRegisterResults : NoPrefix State.reset := noPrefix_reset

theorem witness_IfImmediateResults : (State.reset.setImm 0xFFF).uc = false := rfl

/-- R121's example, shortened: after a false `if.cc` the words `addc, imm, add`. -/
def skipping : State := (withProgram [0x3448, 0x123D, 0x3103] State.reset).setSkip true

theorem witness_SkipPassesPrefixesAndOneInstruction :
    skipping.stopped = false ∧ skipping.skip = true ∧
    (∀ k (h : k < [0x3448#16, 0x123D#16].length),
      skipping.instrAt (skipping.pc + BitVec.ofNat 16 k) = some [0x3448#16, 0x123D#16][k]) ∧
    (∀ v ∈ [0x3448#16, 0x123D#16], (decode v).isPrefix = true) ∧
    skipping.instrAt (skipping.pc + BitVec.ofNat 16 [0x3448#16, 0x123D#16].length) = some 0x3103#16 ∧
    (decode 0x3103#16).isPrefix = false ∧ (decode 0x3103#16).isReserved = false := by
  refine ⟨by decide, by decide, ?_, ?_, by decide, by decide, by decide⟩
  · intro k h
    match k, h with
    | 0, _ => exact (by decide : skipping.instrAt (skipping.pc + 0#16) = some 0x3448#16)
    | 1, _ => exact (by decide : skipping.instrAt (skipping.pc + 1#16) = some 0x123D#16)
  · intro v hv
    simp only [List.mem_cons, List.not_mem_nil, or_false] at hv
    rcases hv with rfl | rfl <;> decide

theorem witness_ImmThenMoveLoadsAnyConstant :
    NoPrefix State.reset ∧ (0xF4#8).toNat % 16 = (0x1234#16).toNat % 16 := ⟨noPrefix_reset, by decide⟩

theorem witness_NotNegSxtIdioms : NoPrefix State.reset := noPrefix_reset

/-- VQ7: `if.eq r1, r2` and `jump +1`, with equal and with unequal registers. -/
theorem witness_IfThenJumpIsAConditionalBranch :
    let s := withProgram [0x1268, 0x0025] (withRegs [(1, 1), (2, 2)])
    s.stopped = false ∧ s.skip = false ∧ s.immv = false ∧ s.uc = false ∧ s.instrAt s.pc = some 0x1268#16 ∧
    decode 0x1268#16 = .ifEqRr 1 2 ∧ s.instrAt (s.pc + 1#16) = some 0x0025#16 ∧ decode 0x0025#16 = .jumpI11 1 ∧
    s.reg 1 ≠ s.reg 2 ∧ (withProgram [0x1268, 0x0025] (withRegs [(1, 2), (2, 2)])).reg 1 =
      (withProgram [0x1268, 0x0025] (withRegs [(1, 2), (2, 2)])).reg 2 := by decide

/-- A skipped prefix instruction, and a skipped regular one. -/
theorem witness_PrefixInstructionsAreExactlyImmAddcSubc :
    ((with1 0xFFFD).setSkip true).stopped = false ∧ ((with1 0xFFFD).setSkip true).skip = true ∧
    ((with1 0xFFFD).setSkip true).instrAt 0 = some 0xFFFD#16 ∧ (decode 0xFFFD#16).isReserved = false ∧
    ((with1 0x0047).setSkip true).instrAt 0 = some 0x0047#16 ∧ (decode 0x0047#16).isReserved = false := by decide

end Sys2Proof.Tests
end

section
/-! The family of 10_state.md: the invariant (R37, R27), and which instruction can change which part of the state.
Every proof goes through one inversion of `step`, and through what `Effect` does to one field of the state. -/

namespace Sys2Proof.Machine

/-! ## What a skipped instruction leaves alone (R121) -/

@[simp] theorem skipOver_c (i : Instr) (s : State) : (skipOver i s).c = s.c := rfl
@[simp] theorem skipOver_uc (i : Instr) (s : State) : (skipOver i s).uc = s.uc := rfl
@[simp] theorem skipOver_immv (i : Instr) (s : State) : (skipOver i s).immv = s.immv := rfl
@[simp] theorem skipOver_imm12 (i : Instr) (s : State) : (skipOver i s).imm12 = s.imm12 := rfl
@[simp] theorem skipOver_halt (i : Instr) (s : State) : (skipOver i s).halt = s.halt := rfl
@[simp] theorem skipOver_error (i : Instr) (s : State) : (skipOver i s).error = s.error := rfl
@[simp] theorem skipOver_dmem (i : Instr) (s : State) : (skipOver i s).dmem = s.dmem := rfl
@[simp] theorem skipOver_imem (i : Instr) (s : State) : (skipOver i s).imem = s.imem := rfl
@[simp] theorem skipOver_csrFile (i : Instr) (s : State) : (skipOver i s).csrFile = s.csrFile := rfl

/-- Behind a skipped `imm`, `addc` or `subc` the skip goes on: only the pc moves. -/
theorem skipOver_of_isPrefix {i : Instr} {s : State} (hk : s.skip = true) (hp : i.isPrefix = true) :
    skipOver i s = s.advance := by
  have hset : s.setSkip true = s := hk ▸ (rfl : s.setSkip s.skip = s)
  rw [skipOver, hp, hset]

/-- Behind a skipped regular instruction the skip has ended. -/
theorem skipOver_of_not_isPrefix {i : Instr} {s : State} (hp : i.isPrefix = false) :
    skipOver i s = { s with pc := s.pc + 1#16, skip := false } := by
  rw [skipOver, hp]
  rfl

/-- R124, instruction by instruction. -/
theorem isPrefix_iff (i : Instr) :
    i.isPrefix = true ↔ (∃ v, i = .imm v) ∨ (∃ rd rs, i = .addcRr rd rs ∨ i = .subcRr rd rs) ∨
      (∃ rd imm6, i = .addcRi6 rd imm6 ∨ i = .subcRi6 rd imm6) := by
  cases i <;> simp [Instr.isPrefix]

/-! ## One step, by what it executes -/

theorem stopped_eq_false_iff (s : State) : s.stopped = false ↔ s.halt = false ∧ s.error = false :=
  Bool.or_eq_false_iff

theorem step_of_stopped {s : State} (h : s.stopped = true) : step s = .next s := by
  simp [step, h]

/-- What one step can do: the core spins, or passes a skipped instruction, or executes one to one of its effects. -/
theorem step_effect {s t : State} (h : step s = .next t) :
    t = s ∨ (s.skip = true ∧ ∃ i, t = skipOver i s) ∨ ∃ i, Executes s i ∧ Effect i s t := by
  obtain ⟨-, rfl⟩ | ⟨w, hs, hw, ⟨hk, -, rfl⟩ | ⟨hk, he⟩⟩ := step_cases h
  · exact .inl rfl
  · exact .inr (.inl ⟨hk, _, rfl⟩)
  · exact .inr (.inr ⟨_, ⟨hs, hk, w, hw, rfl⟩, exec_effect he⟩)

/-- A part of the state that no skip changes is changed by executed instructions only. -/
theorem step_eq_or_effect {β : Type} (part : State → β) (hskip : ∀ i s, part (skipOver i s) = part s) {s t : State}
    (h : step s = .next t) : part t = part s ∨ ∃ i, Executes s i ∧ Effect i s t := by
  obtain rfl | ⟨-, i, rfl⟩ | he := step_effect h
  · exact .inl rfl
  · exact .inl (hskip i s)
  · exact .inr he

/-- A core that executes has both lines clear (R121). -/
theorem Executes.lines_clear {s : State} {i : Instr} (h : Executes s i) : s.halt = false ∧ s.error = false :=
  (stopped_eq_false_iff s).mp h.1

theorem Executes.skip_eq_false {s : State} {i : Instr} (h : Executes s i) : s.skip = false := h.2.1

/-! ## What an effect does to each part of the state -/

section
variable {i : Instr} {s t : State}

theorem Effect.halt_eq_or (h : Effect i s t) : t.halt = s.halt ∨ i = .halt := by
  cases h with
  | halt hi => exact .inr hi
  | _ => exact .inl rfl

theorem Effect.error_eq_or (h : Effect i s t) : t.error = s.error ∨ i = .error := by
  cases h with
  | error hi => exact .inr hi
  | _ => exact .inl rfl

theorem Effect.imem_eq (h : Effect i s t) : t.imem = s.imem := by
  cases h <;> rfl

/-- Only an `if.cc` touches `SKIP`, and it leaves `IMMV`, `UC` and `C` clear (R211). -/
theorem Effect.skip_eq_or (h : Effect i s t) : t.skip = s.skip ∨ IsIf i ∧ PrefixEnded t := by
  cases h with
  | skipNext hi => exact .inr ⟨hi, rfl, rfl, rfl⟩
  | _ => exact .inl rfl

theorem Effect.csrFile_eq_or (h : Effect i s t) :
    t.csrFile = s.csrFile ∨ ∃ rd n, i = .rcsr rd n ∨ i = .wcsr n rd := by
  cases h with
  | csrRead rd n hi => exact .inr ⟨rd, n, .inl hi⟩
  | csrWrite n rd hi => exact .inr ⟨rd, n, .inr hi⟩
  | _ => exact .inl rfl

/-- A write to the destination changes no other register. -/
theorem reg_setReg_eq_or (s : State) {i : Instr} {rd : RegNum} (hd : dest i = some rd) (v : Word) (r : RegNum) :
    (s.setReg rd v).reg r = s.reg r ∨ dest i = some r := by
  by_cases hr : r = rd
  · exact .inr (hr ▸ hd)
  · exact .inl (State.reg_setReg_ne s hr v)

theorem dest_of_call (h : (∃ rd, i = .callRr rd) ∨ (∃ imm11, i = .callI11 imm11)) : dest i = some 0#4 := by
  rcases h with ⟨_, rfl⟩ | ⟨_, rfl⟩ <;> rfl

theorem Effect.reg_eq_or (h : Effect i s t) (r : RegNum) : t.reg r = s.reg r ∨ dest i = some r := by
  cases h with
  | write rd v hd => exact reg_setReg_eq_or s hd v r
  | csrRead rd n hi =>
    exact reg_setReg_eq_or (s.setCsrFile _) (show dest i = some rd by rw [hi, dest]) _ r
  | call target hi => exact reg_setReg_eq_or s (dest_of_call hi) _ r
  | carry rd v b hd => exact reg_setReg_eq_or s hd v r
  | _ => exact .inl rfl

/-- A data byte changes only by a store to it (R162, R164). -/
theorem Effect.readByte_eq_or (h : Effect i s t) (a : Word) :
    t.readByte a = s.readByte a ∨
      ∃ rd rs imm4, (i = .store rd rs imm4 ∧ (a = wordAddr s rs imm4 ∨ a = wordAddr s rs imm4 + 1#16)) ∨
        (i = .storeb rd rs imm4 ∧ a = byteAddr s rs imm4) := by
  cases h with
  | storeWord rd rs imm4 hi =>
    by_cases ha : a = wordAddr s rs imm4 ∨ a = wordAddr s rs imm4 + 1#16
    · exact .inr ⟨rd, rs, imm4, .inl ⟨hi, ha⟩⟩
    · obtain ⟨heven, hodd⟩ := not_or.mp ha
      exact .inl (State.readByte_writeWord_ne s heven hodd _)
  | storeByte rd rs imm4 hi =>
    by_cases ha : a = byteAddr s rs imm4
    · exact .inr ⟨rd, rs, imm4, .inr ⟨hi, ha⟩⟩
    · exact .inl (State.readByte_writeByte_ne s ha _)
  | _ => exact .inl rfl

theorem Effect.dmem_wf (h : Effect i s t) (hwf : Memory.wf s.dmem = true) : Memory.wf t.dmem = true := by
  cases h with
  | storeWord rd rs imm4 => exact State.wf_writeWord s _ _ hwf
  | storeByte rd rs imm4 => exact State.wf_writeByte s _ _ hwf
  | _ => exact hwf

/-- `IMMV`, `UC` and `C` behind an executed instruction (R123): all clear; those of `addc` and `subc`; or, behind `imm`, `halt`
and `error`, which are admitted with `IMMV` and `UC` clear, `UC` and `C` as they were. -/
theorem Effect.prefix_cases (h : Effect i s t) :
    PrefixEnded t ∨ (t.immv = false ∧ t.uc = true) ∨ (NoPrefix s ∧ t.uc = s.uc ∧ t.c = s.c) := by
  cases h with
  | carry => exact .inr (.inl ⟨rfl, rfl⟩)
  | imm _ _ hn => exact .inr (.inr ⟨hn, rfl, rfl⟩)
  | halt _ hn => exact .inr (.inr ⟨hn, rfl, rfl⟩)
  | error _ hn => exact .inr (.inr ⟨hn, rfl, rfl⟩)
  | _ => exact .inl ⟨rfl, rfl, rfl⟩

theorem Effect.pc_cases (h : Effect i s t) :
    t.pc = s.pc + 1#16 ∨ (∃ rd, i = .jumpRr rd ∨ i = .callRr rd) ∨ (∃ v, i = .jumpI11 v ∨ i = .callI11 v) ∨
      i = .halt ∨ i = .error := by
  cases h with
  | jump _ hi =>
    obtain ⟨rd, hi⟩ | ⟨v, hi⟩ := hi
    · exact .inr (.inl ⟨rd, .inl hi⟩)
    · exact .inr (.inr (.inl ⟨v, .inl hi⟩))
  | call _ hi =>
    obtain ⟨rd, hi⟩ | ⟨v, hi⟩ := hi
    · exact .inr (.inl ⟨rd, .inr hi⟩)
    · exact .inr (.inr (.inl ⟨v, .inr hi⟩))
  | halt hi => exact .inr (.inr (.inr (.inl hi)))
  | error hi => exact .inr (.inr (.inr (.inr hi)))
  | _ => exact .inl rfl

end

/-! ## `halt` and `error` (R127, R128) -/

theorem exec_halt_of_noPrefix {s : State} (h : NoPrefix s) : exec .halt s = .next s.assertHalt :=
  admitted_of_none _ (admit_of_noPrefix .halt h)

theorem exec_error_of_noPrefix {s : State} (h : NoPrefix s) : exec .error s = .next s.assertError :=
  admitted_of_none _ (admit_of_noPrefix .error h)

theorem pc_eq_of_exec_halt {s t : State} (h : exec .halt s = .next t) : t.pc = s.pc := by
  obtain ⟨-, h⟩ := admitted_eq_next.mp h
  cases h
  rfl

theorem pc_eq_of_exec_error {s t : State} (h : exec .error s = .next t) : t.pc = s.pc := by
  obtain ⟨-, h⟩ := admitted_eq_next.mp h
  cases h
  rfl

/-! ## The invariant (R37, R27) -/

theorem inv_reset : Inv State.reset where
  skipHasNoPrefix := fun _ => ⟨rfl, rfl, rfl⟩
  oneKindOfPrefix := fun h => Bool.false_ne_true h.1
  oneLine := fun h => Bool.false_ne_true h.1
  carryIsUsed := fun _ => rfl
  dmemWf := rfl
  imemWf := rfl

/-- A skip moves the pc and may end; it leaves all that the invariant speaks of. -/
theorem inv_skipOver {s : State} (hinv : Inv s) (hk : s.skip = true) (i : Instr) : Inv (skipOver i s) where
  skipHasNoPrefix := fun _ => hinv.skipHasNoPrefix hk
  oneKindOfPrefix := hinv.oneKindOfPrefix
  oneLine := hinv.oneLine
  carryIsUsed := hinv.carryIsUsed
  dmemWf := hinv.dmemWf
  imemWf := hinv.imemWf

/-- No effect leaves both `IMMV` and `UC` set (R37 (b)), or a carry that is not used (R27). -/
theorem Effect.keeps_prefixInv {i : Instr} {s t : State} (hinv : Inv s) (h : Effect i s t) :
    ¬ (t.immv = true ∧ t.uc = true) ∧ (t.uc = false → t.c = false) := by
  obtain ⟨him, hu, hc⟩ | ⟨him, hu⟩ | ⟨hn, hu, hc⟩ := h.prefix_cases
  · simp [him, hc]
  · simp [him, hu]
  · have huc : s.uc = false := hn.2
    simp [hu, hc, huc, hinv.carryIsUsed huc]

/-- An executed instruction keeps the invariant. The two lines are clear before it, and it sets at most the one it is
named after; it is not skipped, so `SKIP` can only come from an `if.cc`, which leaves `IMMV`, `UC` and `C` clear. -/
theorem Effect.keeps_inv {i : Instr} {s t : State} (hinv : Inv s) (hx : Executes s i) (h : Effect i s t) : Inv t := by
  obtain ⟨hkind, hcarry⟩ := h.keeps_prefixInv hinv
  obtain ⟨hhalt, herror⟩ := hx.lines_clear
  refine ⟨fun hk => ?_, hkind, fun ⟨hh, he⟩ => ?_, hcarry, h.dmem_wf hinv.dmemWf, h.imem_eq ▸ hinv.imemWf⟩
  · obtain heq | ⟨-, hended⟩ := h.skip_eq_or
    · rw [heq, hx.skip_eq_false] at hk
      exact absurd hk Bool.false_ne_true
    · exact hended
  · obtain heq | hi := h.halt_eq_or
    · simp [heq, hhalt] at hh
    · obtain heq | hi' := h.error_eq_or
      · simp [heq, herror] at he
      · simp [hi] at hi'

theorem inv_step {s t : State} (hinv : Inv s) (h : step s = .next t) : Inv t := by
  obtain rfl | ⟨hk, i, rfl⟩ | ⟨i, hx, he⟩ := step_effect h
  · exact hinv
  · exact inv_skipOver hinv hk i
  · exact he.keeps_inv hinv hx

/-! ## The length of a skip (R211, R224) -/

theorem add_one_add_ofNat (a : Word) (k : Nat) : a + 1#16 + BitVec.ofNat 16 k = a + BitVec.ofNat 16 (k + 1) := by
  rw [BitVec.add_assoc, Nat.add_comm k 1, BitVec.ofNat_add]

theorem toNat_add_one (a : Word) : (a + 1#16).toNat = (a.toNat + 1) % 65536 := BitVec.toNat_add a 1#16

end Sys2Proof.Machine

/-! ## The obligations -/

open Sys2Proof Sys2Proof.Machine

/-- Settles O17: each effect of an executed instruction keeps the invariant, and so do the skip and the spin. -/
theorem stepKeepsTheInvariant : Obligations.StepKeepsTheInvariant :=
  fun _ _ hinv h => inv_step hinv h

/-- Settles O8: a skipping core goes to `skipOver`, whose `SKIP` is `isPrefix` of the instruction. -/
theorem skippedInstructionActsLikeNop : Obligations.SkippedInstructionActsLikeNop :=
  fun _ w hs hk hw hr => ⟨_, step_of_skip hs hk hw hr, rfl, fun _ => rfl, fun _ => rfl, ⟨rfl, rfl, rfl, fun _ => rfl⟩,
    rfl, rfl, rfl, rfl, isPrefix_iff (decode w)⟩

/-- Settles O18: of all effects only that of `halt` touches the line. -/
theorem haltLine : Obligations.HaltLine := by
  refine ⟨fun s hn => ⟨_, exec_halt_of_noPrefix hn, rfl⟩, fun s t h hs ht => ?_,
    fun s hs => step_of_stopped (by simp [State.stopped, hs]), fun _ => rfl⟩
  have hne : t.halt ≠ s.halt := by simp [hs, ht]
  obtain heq | ⟨i, hx, he⟩ := step_eq_or_effect State.halt skipOver_halt h
  · exact absurd heq hne
  · exact he.halt_eq_or.resolve_left hne ▸ hx

/-- Settles O19: of all effects only that of `error` touches the line. -/
theorem errorLine : Obligations.ErrorLine := by
  refine ⟨fun s hn => ⟨_, exec_error_of_noPrefix hn, rfl⟩, fun s t h hs ht => ?_,
    fun s hs => step_of_stopped (by simp [State.stopped, hs]), fun _ => rfl⟩
  have hne : t.error ≠ s.error := by simp [hs, ht]
  obtain heq | ⟨i, hx, he⟩ := step_eq_or_effect State.error skipOver_error h
  · exact absurd heq hne
  · exact he.error_eq_or.resolve_left hne ▸ hx

/-- Settles O20: each effect writes at most the destination register. -/
theorem registersChangeOnlyAsDestinations : Obligations.RegistersChangeOnlyAsDestinations := by
  intro s t r h hne
  obtain heq | ⟨i, hx, he⟩ := step_eq_or_effect (·.reg r) (fun i s => skipOver_reg i s r) h
  · exact absurd heq hne
  · exact ⟨i, hx, (he.reg_eq_or r).resolve_left hne⟩

/-- Settles O21: of all effects only the two stores write data memory, each at the bytes it addresses. -/
theorem dataChangesOnlyByStores : Obligations.DataChangesOnlyByStores := by
  intro s t a h hne
  obtain heq | ⟨i, hx, he⟩ := step_eq_or_effect (·.readByte a) (fun i s => skipOver_readByte i s a) h
  · exact absurd heq hne
  · obtain ⟨rd, rs, imm4, ⟨rfl, ha⟩ | ⟨rfl, ha⟩⟩ := (he.readByte_eq_or a).resolve_left hne
    · exact ⟨rd, rs, imm4, .inl ⟨hx, ha⟩⟩
    · exact ⟨rd, rs, imm4, .inr ⟨hx, ha⟩⟩

/-- Settles O22: no effect writes instruction memory. -/
theorem programTextNeverChanges : Obligations.ProgramTextNeverChanges := by
  intro s t h
  obtain heq | ⟨i, -, he⟩ := step_eq_or_effect State.imem skipOver_imem h
  · exact heq
  · exact he.imem_eq

/-- Settles O23: of all effects only those of `rcsr` and `wcsr` touch the CSR file. -/
theorem csrFileChangesOnlyByCsrInstructions : Obligations.CsrFileChangesOnlyByCsrInstructions := by
  intro s t h hno
  obtain heq | ⟨i, hx, he⟩ := step_eq_or_effect State.csrFile skipOver_csrFile h
  · exact heq
  · obtain heq | ⟨rd, n, rfl | rfl⟩ := he.csrFile_eq_or
    · exact heq
    · exact absurd hx (hno rd n).1
    · exact absurd hx (hno rd n).2

/-- Settles O24: every effect but those of `jump`, `call`, `halt` and `error` advances the pc, and so does a skip. -/
theorem pcAdvancesByOneInstruction : Obligations.PcAdvancesByOneInstruction := by
  intro s t w hs hw h
  cases hk : s.skip with
  | true =>
    obtain ⟨hstop, -⟩ | ⟨w', -, -, ⟨-, -, rfl⟩ | ⟨hk', -⟩⟩ := step_cases h
    · simp [hs] at hstop
    · exact ⟨fun _ => toNat_add_one s.pc, fun h => nomatch h⟩
    · simp [hk] at hk'
  | false =>
    rw [step_of_exec hs hk hw] at h
    refine ⟨fun hother => ?_, fun _ hstay => ?_⟩
    · obtain ⟨hreg, himm, hhalt, herror⟩ := hother.resolve_left Bool.false_ne_true
      obtain hpc | ⟨rd, hi | hi⟩ | ⟨v, hi | hi⟩ | hi | hi := (exec_effect h).pc_cases
      · rw [hpc, toNat_add_one]
      · exact absurd hi (hreg rd).1
      · exact absurd hi (hreg rd).2
      · exact absurd hi (himm v).1
      · exact absurd hi (himm v).2
      · exact absurd hi hhalt
      · exact absurd hi herror
    · obtain hi | hi := hstay
      · exact pc_eq_of_exec_halt (hi ▸ h)
      · exact pc_eq_of_exec_error (hi ▸ h)

/-- Settles O25: with `SKIP` clear no instruction is skipped, and of all effects only that of a false `if.cc` sets it. -/
theorem onlyIfSetsSkip : Obligations.OnlyIfSetsSkip := by
  intro s t h hs ht
  have hne : t.skip ≠ s.skip := by simp [hs, ht]
  obtain rfl | ⟨hk, -⟩ | ⟨i, hx, he⟩ := step_effect h
  · exact absurd rfl hne
  · simp [hs] at hk
  · exact ⟨i, hx, (he.skip_eq_or.resolve_left hne).1⟩

/-- Settles O55, by induction on the run of prefixes: each moves the pc alone, the regular instruction ends the skip. -/
theorem skipPassesPrefixesAndOneInstruction : Obligations.SkipPassesPrefixesAndOneInstruction := by
  intro ws w s hs hk hws hpre hw hreg hr
  induction ws generalizing s with
  | nil =>
    have hw : s.instrAt s.pc = some w := by simpa using hw
    rw [List.length_nil, runFor_succ_of_next 0 (step_of_skip hs hk hw hr), runFor_zero, skipOver_of_not_isPrefix hreg]
  | cons v vs ih =>
    obtain ⟨hv, hvs⟩ := List.forall_mem_cons.mp hpre
    have hfetch : s.instrAt s.pc = some v := by simpa using hws 0 (Nat.succ_pos _)
    have hstep : step s = .next s.advance := by
      rw [step_of_skip hs hk hfetch (not_reserved_of_isPrefix hv), skipOver_of_isPrefix hk hv]
    have hrest : ∀ k (h : k < vs.length), s.advance.instrAt (s.advance.pc + BitVec.ofNat 16 k) = some vs[k] := by
      intro k h
      simpa [add_one_add_ofNat] using hws (k + 1) (Nat.succ_lt_succ h)
    have hlast : s.advance.instrAt (s.advance.pc + BitVec.ofNat 16 vs.length) = some w := by
      simpa [add_one_add_ofNat] using hw
    rw [List.length_cons, runFor_succ_of_next _ hstep, ih s.advance hs hk hrest hvs hlast, State.advance_pc,
      add_one_add_ofNat]
    rfl

/-- Settles O7: `step` fetches before it looks at anything but the two lines. -/
theorem fetchOutsideProgramFaults : Obligations.FetchOutsideProgramFaults := by
  intro s hs hfetch
  simp [step, hs, hfetch]

/-- Settles O15: both states are written out field by field. -/
theorem resetClearsFlagsAndStartsAtZero : Obligations.ResetClearsFlagsAndStartsAtZero := by
  intro s t ht
  obtain rfl | rfl := ht
  · exact ⟨rfl, rfl, rfl, rfl, rfl, rfl, rfl, fun _ => rfl, fun _ => rfl⟩
  · exact ⟨rfl, rfl, rfl, rfl, rfl, rfl, rfl, fun _ => rfl, fun _ => rfl⟩

/-- Settles O16: no flag or line is set, and both memories are empty. -/
theorem resetMeetsTheInvariant : Obligations.ResetMeetsTheInvariant := inv_reset

end

section
/-! The family of 20_memory.md: words and bytes in data memory (R50 to R56, R67), what a run leaves in a byte that it does
not store to (R62), and the fetch from any address (R54). -/

namespace Sys2Proof.Machine

/-! ## Instruction memory (R54) -/

@[simp] theorem State.instrAt_placeInstr_same (s : State) (a w : Word) : (s.placeInstr a w).instrAt a = some w :=
  Sparse.read_write_same s.imem a.toNat w

/-! ## The two bytes of a word (R50, R67) -/

theorem toNat_extract_low (v : Word) : (v.extractLsb' 0 8).toNat = v.toNat % 256 := by
  simp [BitVec.extractLsb'_toNat]

theorem toNat_extract_high (v : Word) : (v.extractLsb' 8 8).toNat = v.toNat / 256 := by
  have hlt : v.toNat / 256 < 256 := Nat.div_lt_of_lt_mul v.isLt
  simp [BitVec.extractLsb'_toNat, Nat.shiftRight_eq_div_pow, Nat.mod_eq_of_lt hlt]

/-- The two bytes of a word, as numbers, under either order. -/
theorem toNat_evenByte_oddByte (o : ByteOrder) (v : Word) :
    (o = .little ∧ (evenByte o v).toNat = v.toNat % 256 ∧ (oddByte o v).toNat = v.toNat / 256) ∨
    (o = .big ∧ (evenByte o v).toNat = v.toNat / 256 ∧ (oddByte o v).toNat = v.toNat % 256) := by
  cases o
  · exact .inl ⟨rfl, toNat_extract_low v, toNat_extract_high v⟩
  · exact .inr ⟨rfl, toNat_extract_high v, toNat_extract_low v⟩

/-- Two bytes that hold a value read as the word they make (R55). -/
theorem State.readWord_of_bytes {s : State} {a : Word} {b0 b1 : Byte} (h0 : s.readByte a = some b0)
    (h1 : s.readByte (a + 1#16) = some b1) : s.readWord a = some (joinBytes Config.byteOrder b0 b1) := by
  simp [State.readWord, h0, h1]

/-- A word reads alike where its two bytes do. -/
theorem State.readWord_congr {s t : State} {a : Word} (h0 : t.readByte a = s.readByte a)
    (h1 : t.readByte (a + 1#16) = s.readByte (a + 1#16)) : t.readWord a = s.readWord a := by
  simp only [State.readWord, h0, h1]

/-- `MemWrite(a, 2, v)` changes no byte outside its word (R56). -/
theorem sameMemoryButWord_writeWord (s : State) (a v : Word) : SameMemoryButWord a s (s.writeWord a v) :=
  fun _ heven hodd => State.readByte_writeWord_ne s heven hodd v

/-- `MemWrite(a, 1, b)` changes no other byte (R56). -/
theorem sameMemoryButByte_writeByte (s : State) (a : Word) (b : Byte) : SameMemoryButByte a s (s.writeByte a b) :=
  fun _ hne => State.readByte_writeByte_ne s hne b

/-! ## The address of a word access (R52) -/

/-- `& 0xFFFE` drops bit 0. -/
theorem toNat_and_FFFE (x : Word) : (x &&& 0xFFFE#16).toNat = x.toNat / 2 * 2 := by
  have hlt : x.toNat / 2 < 2 ^ 15 := Nat.div_lt_of_lt_mul x.isLt
  have hdiv : (x.toNat &&& 65534) / 2 = x.toNat / 2 := by
    rw [Nat.and_div_two]
    exact Nat.and_two_pow_sub_one_of_lt_two_pow hlt
  have hmod : (x.toNat &&& 65534) % 2 = 0 := by
    simpa using Nat.and_mod_two_pow (a := x.toNat) (b := 65534) (n := 1)
  rw [BitVec.toNat_and]
  change x.toNat &&& 65534 = x.toNat / 2 * 2
  omega

theorem toNat_wordAddr (s : State) (rs : RegNum) (imm4 : BitVec 4) :
    (wordAddr s rs imm4).toNat = ((s.reg rs).toNat / 2 * 2 + 2 * (immLs s imm4).toNat) % 65536 := by
  rw [wordAddr, BitVec.toNat_add, toNat_and_FFFE, BitVec.toNat_mul]
  exact Nat.add_mod_mod _ _ _

/-! ## The four meanings when no carry is pending (R122, R161 to R164) -/

section
variable {s : State} (hu : s.uc = false) (rd rs : RegNum) (imm4 : BitVec 4)
include hu

theorem admit_of_format_ls {i : Instr} (hf : i.format = .ls) : admission i s = none :=
  admit_of_immediate hu (by simp [hf]) (by simp [hf])

theorem exec_store_of_uc : exec (.store rd rs imm4) s =
    .next (s.writeWord (wordAddr s rs imm4) (s.reg rd)).endPrefixState.advance :=
  admitted_of_none _ (admit_of_format_ls hu rfl)

theorem exec_storeb_of_uc : exec (.storeb rd rs imm4) s =
    .next (s.writeByte (byteAddr s rs imm4) ((s.reg rd).extractLsb' 0 8)).endPrefixState.advance :=
  admitted_of_none _ (admit_of_format_ls hu rfl)

theorem exec_load_of_uc {v : Word} (hv : s.readWord (wordAddr s rs imm4) = some v) :
    exec (.load rd rs imm4) s = .next (s.setReg rd v).endPrefixState.advance :=
  Eq.trans (admitted_of_none _ (admit_of_format_ls hu rfl)) (loadInto_eq_next.mpr ⟨v, hv, rfl⟩)

theorem exec_loadb_of_uc {b : Byte} (hb : s.readByte (byteAddr s rs imm4) = some b) :
    exec (.loadb rd rs imm4) s = .next (s.setReg rd (b.signExtend 16)).endPrefixState.advance :=
  Eq.trans (admitted_of_none _ (admit_of_format_ls hu rfl))
    (loadInto_eq_next.mpr ⟨_, congrArg (Option.map _) hb, rfl⟩)

end

/-- Behind an executed `store` its word holds the register stored (R162). -/
theorem readWord_of_exec_store {s t : State} {rd rs : RegNum} {imm4 : BitVec 4}
    (h : exec (.store rd rs imm4) s = .next t) : t.readWord (wordAddr s rs imm4) = some (s.reg rd) := by
  obtain ⟨-, h⟩ := admitted_eq_next.mp h
  cases h
  exact State.readWord_writeWord_same s _ _

/-! ## What a run keeps in a byte (R62) -/

/-- A byte that a step does not store to is as it was. -/
theorem readByte_eq_of_step {s t : State} {a : Word} (h : step s = .next t) (hno : ¬ StoresAt a s) :
    t.readByte a = s.readByte a :=
  by_contra fun hne => hno (dataChangesOnlyByStores s t a h hne)

theorem runFor_succ_eq_next {k : Nat} {s t : State} :
    runFor (k + 1) s = .next t ↔ ∃ u, step s = .next u ∧ runFor k u = .next t := by
  cases h : step s <;> simp [runFor, h]

/-- A byte that no step of a run stores to is at the end as it was at the start. -/
theorem readByte_eq_of_runFor {k : Nat} {s t : State} {a : Word} (h : runFor k s = .next t)
    (hno : ∀ j w, j < k → runFor j s = .next w → ¬ StoresAt a w) : t.readByte a = s.readByte a := by
  induction k generalizing s with
  | zero =>
    cases h
    rfl
  | succ k ih =>
    obtain ⟨u, hstep, hrest⟩ := runFor_succ_eq_next.mp h
    have hfirst : u.readByte a = s.readByte a := readByte_eq_of_step hstep (hno 0 s k.succ_pos rfl)
    have hlater : ∀ j w, j < k → runFor j u = .next w → ¬ StoresAt a w := fun j w hj hw =>
      hno (j + 1) w (Nat.succ_lt_succ hj) (runFor_succ_eq_next.mpr ⟨u, hstep, hw⟩)
    exact (ih hrest hlater).trans hfirst

end Sys2Proof.Machine

/-! ## The obligations -/

open Sys2Proof Sys2Proof.Machine

/-- Settles O6: the word placed at the pc is the one that the step fetches. -/
theorem everyPcValueNamesAnInstruction : Obligations.EveryPcValueNamesAnInstruction :=
  fun _ a w hs hk => step_of_exec hs hk (State.instrAt_placeInstr_same _ a w)

/-- Settles O27: the two bytes written are the halves of the word, in the order of the model's byte order. -/
theorem wordIsTwoBytes : Obligations.WordIsTwoBytes :=
  fun s a v => ⟨sameMemoryButWord_writeWord s a v, State.readWord_writeWord_same s a v, _, _,
    State.readByte_writeWord_even s a v, State.readByte_writeWord_odd s a v, toNat_evenByte_oddByte Config.byteOrder v⟩

/-- Settles O28: the second write leaves the first byte alone, and the word read joins the two. -/
theorem twoBytesMakeAWord : Obligations.TwoBytesMakeAWord := by
  intro s a b0 b1
  have h0 : ((s.writeByte a b0).writeByte (a + 1#16) b1).readByte a = some b0 := by
    rw [State.readByte_writeByte_ne _ (ne_add_one a), State.readByte_writeByte_same]
  exact ⟨_, State.readWord_of_bytes h0 (State.readByte_writeByte_same _ _ b1), toNat_joinBytes Config.byteOrder b0 b1⟩

/-- Settles O29: both summands of the word address are even, and neither meaning tests the base. -/
theorem wordAccessesAreAligned : Obligations.WordAccessesAreAligned := by
  intro s rd rs imm4
  have haddr := toNat_wordAddr s rs imm4
  refine ⟨by omega, haddr, fun hu => ⟨_, exec_store_of_uc hu rd rs imm4⟩, fun hu h0 h1 => ?_⟩
  obtain ⟨b0, hb0⟩ := Option.ne_none_iff_exists'.mp h0
  obtain ⟨b1, hb1⟩ := Option.ne_none_iff_exists'.mp h1
  exact ⟨_, exec_load_of_uc hu rd rs imm4 (State.readWord_of_bytes hb0 hb1)⟩

/-- Settles O30: the byte address is the plain sum, and the byte goes there and comes from there. -/
theorem byteAccessesUseTheAddressAsItIs : Obligations.ByteAccessesUseTheAddressAsItIs := by
  intro s rd rs imm4 hu
  have hlow : (s.reg rd).extractLsb' 0 8 = BitVec.ofNat 8 (s.reg rd).toNat :=
    BitVec.eq_of_toNat_eq (toNat_extract_low _)
  refine ⟨⟨_, exec_storeb_of_uc hu rd rs imm4, ?_, sameMemoryButByte_writeByte s _ _⟩, fun b hb => ?_⟩
  · exact hlow ▸ State.readByte_writeByte_same s _ _
  · refine ⟨_, exec_loadb_of_uc hu rd rs imm4 hb, ?_⟩
    simp [BitVec.toInt_signExtend_of_le]

/-- Settles O45: the store leaves its word in the two bytes, the run stores to neither, and the load reads them. -/
theorem loadReturnsTheLatestStore : Obligations.LoadReturnsTheLatestStore := by
  intro s u v k rd rs rd' rs' imm4 imm4' hstore hrun hno hu haddr
  have heven := readByte_eq_of_runFor hrun fun j w hj hw => (hno j w hj hw).1
  have hodd := readByte_eq_of_runFor hrun fun j w hj hw => (hno j w hj hw).2
  have hword : v.readWord (wordAddr v rs' imm4') = some (s.reg rd) := by
    rw [haddr, State.readWord_congr heven hodd, readWord_of_exec_store hstore]
  exact ⟨_, exec_load_of_uc hu rd' rs' imm4' hword, writesOnly_retired v rd' _⟩

end

section
/-! The family of 30_encoding.md: decoding and encoding as inverses, the rows of the opcode table (R81 to R106), the
refusal of reserved words, immediates (R91, R92) and the pseudo-instructions (R103). -/

namespace Sys2Proof

/-! ## A word from its fields: the converse of the field laws of the format builders (R83 to R90) -/

section
variable {w : Word}

theorem low_bits_of_fmtField {f : BitVec 2} (hf : fmtField w = f) : w[0] = f.getLsbD 0 ∧ w[1] = f.getLsbD 1 := by
  subst hf
  simp [fmtField]

theorem rrWord_of_fields (hf : fmtField w = 0b00#2) (h7 : w[7] = false) :
    rrWord (opField w) (rdField w) (rsField w) = w := by
  obtain ⟨h0, h1⟩ := low_bits_of_fmtField hf
  apply BitVec.eq_of_getLsbD_eq
  intro i h
  simp only [rrWord, rdField, rsField, opField, BitVec.getLsbD_append, BitVec.getLsbD_extractLsb']
  interval_cases i <;> simp [h0, h1, h7]

theorem ri6Word_of_fields (hf : fmtField w = 0b11#2) : ri6Word (funcField w) (rdField w) (imm6Field w) = w := by
  obtain ⟨h0, h1⟩ := low_bits_of_fmtField hf
  apply BitVec.eq_of_getLsbD_eq
  intro i h
  simp only [ri6Word, rdField, imm6Field, funcField, BitVec.getLsbD_append, BitVec.getLsbD_extractLsb']
  interval_cases i <;> simp [h0, h1]

theorem lsWord_of_fields (hf : fmtField w = 0b10#2) :
    lsWord (lsOpField w) (rdField w) (rsField w) (imm4Field w) = w := by
  obtain ⟨h0, h1⟩ := low_bits_of_fmtField hf
  apply BitVec.eq_of_getLsbD_eq
  intro i h
  simp only [lsWord, rdField, rsField, imm4Field, lsOpField, BitVec.getLsbD_append, BitVec.getLsbD_extractLsb']
  interval_cases i <;> simp [h0, h1]

theorem ri8Word_of_fields {op : BitVec 1} (hf : fmtField w = 0b01#2) (h2 : w[2] = false) (h3 : w[3] = op[0]) :
    ri8Word op (rdField w) (imm8Field w) = w := by
  obtain ⟨h0, h1⟩ := low_bits_of_fmtField hf
  apply BitVec.eq_of_getLsbD_eq
  intro i h
  simp only [ri8Word, rdField, imm8Field, BitVec.getLsbD_append, BitVec.getLsbD_extractLsb']
  interval_cases i <;> simp [h0, h1, h2, h3]

theorem i11Word_of_fields {op : BitVec 2} (hf : fmtField w = 0b01#2) (h2 : w[2] = true) (h3 : w[3] = op[0])
    (h4 : w[4] = op[1]) : i11Word op (imm11Field w) = w := by
  obtain ⟨h0, h1⟩ := low_bits_of_fmtField hf
  apply BitVec.eq_of_getLsbD_eq
  intro i h
  simp only [i11Word, imm11Field, BitVec.getLsbD_append, BitVec.getLsbD_extractLsb']
  interval_cases i <;> simp [h0, h1, h2, h3, h4]

theorem i12Word_of_fields (hf : fmtField w = 0b01#2) (h2 : w[2] = true) (h3 : w[3] = true) :
    i12Word (imm12Field w) = w := by
  obtain ⟨h0, h1⟩ := low_bits_of_fmtField hf
  apply BitVec.eq_of_getLsbD_eq
  intro i h
  simp only [i12Word, imm12Field, BitVec.getLsbD_append, BitVec.getLsbD_extractLsb']
  interval_cases i <;> simp [h0, h1, h2, h3]

/-- R99 by the mask of its row. -/
theorem masked_of_bit7 (hf : fmtField w = 0b00#2) (h7 : w[7] = true) : w &&& 0x0083#16 = 0x0080#16 := by
  obtain ⟨h0, h1⟩ := low_bits_of_fmtField hf
  apply BitVec.eq_of_getLsbD_eq
  intro i h
  simp only [BitVec.getLsbD_and]
  interval_cases i <;> simp [h0, h1, h7]

end

/-! ## The N/A fields of rr words (R100) -/

section
variable (op : BitVec 5) (rd rs : RegNum)

theorem rrWord_without_rs : rrWord op rd 0#4 = rrWord op rd rs &&& 0xF0FF#16 := by
  apply BitVec.eq_of_getLsbD_eq
  intro i h
  simp only [rrWord, BitVec.getLsbD_append, BitVec.getLsbD_and]
  interval_cases i <;> simp

theorem rrWord_without_registers : rrWord op 0#4 0#4 = rrWord op rd rs &&& 0x00FF#16 := by
  apply BitVec.eq_of_getLsbD_eq
  intro i h
  simp only [rrWord, BitVec.getLsbD_append, BitVec.getLsbD_and]
  interval_cases i <;> simp

/-- A mask of low bits sees only the opcode of an rr word. -/
theorem rrWord_and {mask : Word} (hmask : 0x00FF#16 &&& mask = mask) :
    rrWord op rd rs &&& mask = op.zeroExtend 16 <<< 2 &&& mask := by
  rw [← rrWord_masked op rd rs, BitVec.and_assoc, hmask]

end

/-! ## Encoding what a word decodes to -/

/-- `i` is a well-formed instruction whose word is `w` up to the N/A fields. -/
def ReadFrom (w : Word) (i : Instr) : Prop := i.wellFormed = true ∧ encode i = w &&& i.readBits

theorem eq_and_FFFF (w : Word) : w = w &&& 0xFFFF#16 := BitVec.and_allOnes.symm

theorem readFrom_decodeRr {w : Word} (hf : fmtField w = 0b00#2) : ReadFrom w (decodeRr w) := by
  unfold decodeRr
  split
  · next h7 => exact ⟨beq_iff_eq.mpr (masked_of_bit7 hf h7), eq_and_FFFF w⟩
  · next h7 =>
    have hword : rrWord (BitVec.ofNat 5 (opField w).toNat) (rdField w) (rsField w) = w := by
      rw [BitVec.ofNat_toNat, BitVec.setWidth_eq, rrWord_of_fields hf (Bool.eq_false_of_not_eq_true h7)]
    have hop : (opField w).toNat < 32 := (opField w).isLt
    generalize (opField w).toNat = op at hword hop
    match op, hop, hword with
    | 0, _, hword | 1, _, hword | 2, _, hword | 3, _, hword =>
      exact ⟨rfl, (rrWord_without_registers _ _ _).trans (congrArg (· &&& 0x00FF#16) hword)⟩
    | 8, _, hword | 10, _, hword =>
      exact ⟨rfl, (rrWord_without_rs _ _ _).trans (congrArg (· &&& 0xF0FF#16) hword)⟩
    | 9, _, hword | 11, _, hword | 12, _, hword | 13, _, hword | 14, _, hword | 15, _, hword =>
      refine ⟨beq_iff_eq.mpr ?_, eq_and_FFFF w⟩
      rw [← hword, rrWord_and _ _ _ rfl]
      rfl
    | 4, _, hword | 5, _, hword | 6, _, hword | 7, _, hword | 16, _, hword | 17, _, hword | 18, _, hword
    | 19, _, hword | 20, _, hword | 21, _, hword | 22, _, hword | 23, _, hword | 24, _, hword | 25, _, hword
    | 26, _, hword | 27, _, hword | 28, _, hword | 29, _, hword | 30, _, hword | 31, _, hword =>
      exact ⟨rfl, hword.trans (eq_and_FFFF w)⟩
    | _ + 32, hop, _ => exact absurd hop (by omega)

theorem readFrom_decodeRi6 {w : Word} (hf : fmtField w = 0b11#2) : ReadFrom w (decodeRi6 w) := by
  have hword : ri6Word (BitVec.ofNat 4 (funcField w).toNat) (rdField w) (imm6Field w) = w := by
    rw [BitVec.ofNat_toNat, BitVec.setWidth_eq, ri6Word_of_fields hf]
  have hfunc : (funcField w).toNat < 16 := (funcField w).isLt
  unfold decodeRi6
  generalize (funcField w).toNat = func at hword hfunc
  interval_cases func
  all_goals exact ⟨rfl, hword.trans (eq_and_FFFF w)⟩

theorem readFrom_decodeLs {w : Word} (hf : fmtField w = 0b10#2) : ReadFrom w (decodeLs w) := by
  have hword : lsWord (BitVec.ofNat 2 (lsOpField w).toNat) (rdField w) (rsField w) (imm4Field w) = w := by
    rw [BitVec.ofNat_toNat, BitVec.setWidth_eq, lsWord_of_fields hf]
  have hop : (lsOpField w).toNat < 4 := (lsOpField w).isLt
  unfold decodeLs
  generalize (lsOpField w).toNat = op at hword hop
  interval_cases op
  all_goals exact ⟨rfl, hword.trans (eq_and_FFFF w)⟩

theorem readFrom_decodeFmt01 {w : Word} (hf : fmtField w = 0b01#2) : ReadFrom w (decodeFmt01 w) := by
  unfold decodeFmt01
  split
  · next h2 =>
    split
    · next h3 => exact ⟨rfl, (i12Word_of_fields hf h2 h3).trans (eq_and_FFFF w)⟩
    · next h3 =>
      have h3 : w[3] = false := Bool.eq_false_of_not_eq_true h3
      split
      · next h4 => exact ⟨rfl, (i11Word_of_fields (op := 0b10#2) hf h2 h3 h4).trans (eq_and_FFFF w)⟩
      · next h4 =>
        have h4 : w[4] = false := Bool.eq_false_of_not_eq_true h4
        exact ⟨rfl, (i11Word_of_fields (op := 0b00#2) hf h2 h3 h4).trans (eq_and_FFFF w)⟩
  · next h2 =>
    have h2 : w[2] = false := Bool.eq_false_of_not_eq_true h2
    split
    · next h3 => exact ⟨rfl, (ri8Word_of_fields (op := 0b1#1) hf h2 h3).trans (eq_and_FFFF w)⟩
    · next h3 =>
      have h3 : w[3] = false := Bool.eq_false_of_not_eq_true h3
      exact ⟨rfl, (ri8Word_of_fields (op := 0b0#1) hf h2 h3).trans (eq_and_FFFF w)⟩

theorem readFrom_decode (w : Word) : ReadFrom w (decode w) := by
  have hfmt : fmtField w = BitVec.ofNat 2 (fmtField w).toNat := by simp
  have hlt : (fmtField w).toNat < 4 := (fmtField w).isLt
  unfold decode
  generalize (fmtField w).toNat = fmt at hfmt hlt
  interval_cases fmt
  · exact readFrom_decodeRr hfmt
  · exact readFrom_decodeFmt01 hfmt
  · exact readFrom_decodeLs hfmt
  · exact readFrom_decodeRi6 hfmt

/-! ## The rows of the opcode table (R106) -/

/-- One instruction of each constructor. -/
def kinds : List Instr :=
  [.nop, .rets, .error, .halt, .rcsr 0 0, .wcsr 0 0, .moveRr 0 0, .moveRi8 0 0, .loadcRr 0 0, .loadcRi8 0 0, .jumpRr 0,
    .jumpI11 0, .imm 0, .callRr 0, .callI11 0, .load 0 0 0, .store 0 0 0, .loadb 0 0 0, .storeb 0 0 0, .addRr 0 0,
    .addRi6 0 0, .subRr 0 0, .subRi6 0 0, .addcRr 0 0, .addcRi6 0 0, .subcRr 0 0, .subcRi6 0 0, .xorRr 0 0,
    .xorRi6 0 0, .andRr 0 0, .andRi6 0 0, .orRr 0 0, .orRi6 0 0, .shlRr 0 0, .shlRi6 0 0, .shrRr 0 0, .shrRi6 0 0,
    .asrRr 0 0, .asrRi6 0 0, .ifEqRr 0 0, .ifEqRi6 0 0, .ifNeRr 0 0, .ifNeRi6 0 0, .ifLtRr 0 0, .ifLtRi6 0 0,
    .ifGeRr 0 0, .ifGeRi6 0 0, .ifUltRr 0 0, .ifUltRi6 0 0, .ifUgeRr 0 0, .ifUgeRi6 0 0, .reservedOp9or11 0,
    .reservedOp12to15 0, .reservedBit7 0]

/-- The 54 rows of the opcode table. -/
def rows : List (Word × Word) := kinds.map Instr.row

theorem row_mem_rows (i : Instr) : i.row ∈ rows := by
  cases i <;> exact List.mem_of_elem_eq_true rfl

/-- No two rows share a word: they differ in a bit that both masks show. -/
theorem rows_pairwise_disjoint : rows.Pairwise fun r r' => r.2 &&& r'.1 ≠ r'.2 &&& r.1 :=
  of_decide_eq_true rfl

/-- A word lies in at most one row. -/
theorem row_eq_of_common_word {w : Word} {i j : Instr} (hi : w &&& i.row.1 = i.row.2) (hj : w &&& j.row.1 = j.row.2) :
    i.row = j.row := by
  by_contra hne
  have hsymm : Std.Symm fun r r' : Word × Word => r.2 &&& r'.1 ≠ r'.2 &&& r.1 := ⟨fun _ _ h => h.symm⟩
  have hdisjoint : i.row.2 &&& j.row.1 ≠ j.row.2 &&& i.row.1 :=
    rows_pairwise_disjoint.forall (row_mem_rows i) (row_mem_rows j) hne
  apply hdisjoint
  rw [← hi, ← hj, BitVec.and_assoc, BitVec.and_assoc, BitVec.and_comm i.row.1]

/-- The decoder reads every bit that the row fixes. -/
theorem readBits_and_mask (i : Instr) : i.readBits &&& i.row.1 = i.row.1 := by
  cases i <;> simp [Instr.readBits, Instr.row]

/-- The bits read, by the match of the row: without registers (`nop`, `rets`, `error`, `halt`), without `rs` (`jump rd`,
`call rd`), or all. -/
def readBitsOfMatch (m : Word) : Word :=
  if m ∈ [0x0000#16, 0x0004#16, 0x0008#16, 0x000C#16] then 0x00FF#16
  else if m ∈ [0x0020#16, 0x0028#16] then 0xF0FF#16
  else 0xFFFF#16

theorem readBits_eq (i : Instr) : i.readBits = readBitsOfMatch i.row.2 := by
  cases i <;> rfl

open Laws in
/-- The word of a well-formed instruction lies in the instruction's row. -/
theorem encodesInRow : ∀ i : Instr, EncodesInRow.Statement i
  | .nop => EncodesInRow.nop
  | .rets => EncodesInRow.rets
  | .error => EncodesInRow.error
  | .halt => EncodesInRow.halt
  | .rcsr rd csr => EncodesInRow.rcsr rd csr
  | .wcsr csr rd => EncodesInRow.wcsr csr rd
  | .moveRr rd rs => EncodesInRow.moveRr rd rs
  | .moveRi8 rd imm8 => EncodesInRow.moveRi8 rd imm8
  | .loadcRr rd rs => EncodesInRow.loadcRr rd rs
  | .loadcRi8 rd imm8 => EncodesInRow.loadcRi8 rd imm8
  | .jumpRr rd => EncodesInRow.jumpRr rd
  | .jumpI11 imm11 => EncodesInRow.jumpI11 imm11
  | .imm imm12 => EncodesInRow.imm imm12
  | .callRr rd => EncodesInRow.callRr rd
  | .callI11 imm11 => EncodesInRow.callI11 imm11
  | .load rd rs imm4 => EncodesInRow.load rd rs imm4
  | .store rd rs imm4 => EncodesInRow.store rd rs imm4
  | .loadb rd rs imm4 => EncodesInRow.loadb rd rs imm4
  | .storeb rd rs imm4 => EncodesInRow.storeb rd rs imm4
  | .addRr rd rs => EncodesInRow.addRr rd rs
  | .addRi6 rd imm6 => EncodesInRow.addRi6 rd imm6
  | .subRr rd rs => EncodesInRow.subRr rd rs
  | .subRi6 rd imm6 => EncodesInRow.subRi6 rd imm6
  | .addcRr rd rs => EncodesInRow.addcRr rd rs
  | .addcRi6 rd imm6 => EncodesInRow.addcRi6 rd imm6
  | .subcRr rd rs => EncodesInRow.subcRr rd rs
  | .subcRi6 rd imm6 => EncodesInRow.subcRi6 rd imm6
  | .xorRr rd rs => EncodesInRow.xorRr rd rs
  | .xorRi6 rd imm6 => EncodesInRow.xorRi6 rd imm6
  | .andRr rd rs => EncodesInRow.andRr rd rs
  | .andRi6 rd imm6 => EncodesInRow.andRi6 rd imm6
  | .orRr rd rs => EncodesInRow.orRr rd rs
  | .orRi6 rd imm6 => EncodesInRow.orRi6 rd imm6
  | .shlRr rd rs => EncodesInRow.shlRr rd rs
  | .shlRi6 rd imm6 => EncodesInRow.shlRi6 rd imm6
  | .shrRr rd rs => EncodesInRow.shrRr rd rs
  | .shrRi6 rd imm6 => EncodesInRow.shrRi6 rd imm6
  | .asrRr rd rs => EncodesInRow.asrRr rd rs
  | .asrRi6 rd imm6 => EncodesInRow.asrRi6 rd imm6
  | .ifEqRr rd rs => EncodesInRow.ifEqRr rd rs
  | .ifEqRi6 rd imm6 => EncodesInRow.ifEqRi6 rd imm6
  | .ifNeRr rd rs => EncodesInRow.ifNeRr rd rs
  | .ifNeRi6 rd imm6 => EncodesInRow.ifNeRi6 rd imm6
  | .ifLtRr rd rs => EncodesInRow.ifLtRr rd rs
  | .ifLtRi6 rd imm6 => EncodesInRow.ifLtRi6 rd imm6
  | .ifGeRr rd rs => EncodesInRow.ifGeRr rd rs
  | .ifGeRi6 rd imm6 => EncodesInRow.ifGeRi6 rd imm6
  | .ifUltRr rd rs => EncodesInRow.ifUltRr rd rs
  | .ifUltRi6 rd imm6 => EncodesInRow.ifUltRi6 rd imm6
  | .ifUgeRr rd rs => EncodesInRow.ifUgeRr rd rs
  | .ifUgeRi6 rd imm6 => EncodesInRow.ifUgeRi6 rd imm6
  | .reservedOp9or11 w => EncodesInRow.reservedOp9or11 w
  | .reservedOp12to15 w => EncodesInRow.reservedOp12to15 w
  | .reservedBit7 w => EncodesInRow.reservedBit7 w

theorem decode_in_row (w : Word) : w &&& (decode w).row.1 = (decode w).row.2 := by
  obtain ⟨hwf, hword⟩ := readFrom_decode w
  have hrow := encodesInRow (decode w) hwf
  rwa [hword, BitVec.and_assoc, readBits_and_mask] at hrow

/-- A word in the row of an instruction decodes to an instruction of that row. -/
theorem row_decode_eq {w : Word} {i : Instr} (h : w &&& i.row.1 = i.row.2) : (decode w).row = i.row :=
  row_eq_of_common_word (decode_in_row w) h

/-! ## Decoding inverts encoding -/

/-- The decoder reads the fields that the format builder wrote: the `simp` laws of Laws/Encoding. -/
theorem decode_encode_of_not_reserved {i : Instr} (hi : i.isReserved = false) : decode (encode i) = i := by
  cases i
  case reservedOp9or11 => cases hi
  case reservedOp12to15 => cases hi
  case reservedBit7 => cases hi
  all_goals simp [encode, decode, decodeRr, decodeRi6, decodeLs, decodeFmt01]

/-- A reserved constructor is given by its row and its word. -/
theorem eq_of_isReserved {i j : Instr} (hi : i.isReserved = true) (hrow : j.row = i.row)
    (hword : encode j = encode i) : j = i := by
  cases i
  case reservedOp9or11 w =>
    cases j <;> simp [Instr.row] at hrow
    exact congrArg Instr.reservedOp9or11 hword
  case reservedOp12to15 w =>
    cases j <;> simp [Instr.row] at hrow
    exact congrArg Instr.reservedOp12to15 hword
  case reservedBit7 w =>
    cases j <;> simp [Instr.row] at hrow
    exact congrArg Instr.reservedBit7 hword
  all_goals cases hi

theorem readBits_of_isReserved {i : Instr} (hi : i.isReserved = true) : i.readBits = 0xFFFF#16 := by
  cases i
  case reservedOp9or11 => rfl
  case reservedOp12to15 => rfl
  case reservedBit7 => rfl
  all_goals cases hi

theorem decode_encode_of_isReserved {i : Instr} (hi : i.isReserved = true) (hwf : i.wellFormed = true) :
    decode (encode i) = i := by
  have hrow : (decode (encode i)).row = i.row := row_decode_eq (encodesInRow i hwf)
  have hbits : (decode (encode i)).readBits = 0xFFFF#16 := by
    rw [readBits_eq, hrow, ← readBits_eq, readBits_of_isReserved hi]
  have hword : encode (decode (encode i)) = encode i := by
    rw [(readFrom_decode (encode i)).2, hbits, ← eq_and_FFFF]
  exact eq_of_isReserved hi hrow hword

theorem decode_encode {i : Instr} (hwf : i.wellFormed = true) : decode (encode i) = i := by
  cases hi : i.isReserved with
  | true => exact decode_encode_of_isReserved hi hwf
  | false => exact decode_encode_of_not_reserved hi

/-- The N/A fields do not influence decoding (R100). -/
theorem decode_eq_of_and_readBits {v w : Word} (h : v &&& (decode w).readBits = w &&& (decode w).readBits) :
    decode v = decode w := by
  obtain ⟨hwfv, hwordv⟩ := readFrom_decode v
  obtain ⟨hwfw, hwordw⟩ := readFrom_decode w
  have hmask : v &&& (decode w).row.1 = (decode w).row.2 := by
    rw [← readBits_and_mask, ← BitVec.and_assoc, h, BitVec.and_assoc, readBits_and_mask, decode_in_row]
  have hbits : (decode v).readBits = (decode w).readBits := by
    rw [readBits_eq, row_decode_eq hmask, ← readBits_eq]
  calc decode v = decode (encode (decode v)) := (decode_encode hwfv).symm
    _ = decode (encode (decode w)) := by rw [hwordv, hbits, h, hwordw]
    _ = decode w := decode_encode hwfw

end Sys2Proof

namespace Sys2Proof.Machine

/-! ## Reserved words (R97, R98, R99, R101) -/

theorem stepInstr_of_isReserved {i : Instr} (hi : i.isReserved = true) (s : State) : stepInstr i s = exec i s := by
  simp [stepInstr, hi]

/-- A reserved word at the pc goes to its own meaning, skipping or not. -/
theorem step_of_isReserved {s : State} {i : Instr} (hi : i.isReserved = true) (hwf : i.wellFormed = true)
    (hs : s.stopped = false) (hw : s.instrAt s.pc = some (encode i)) : step s = exec i s := by
  rw [step_of_fetch hs hw, decode_encode hwf, stepInstr_of_isReserved hi]

/-! ## Immediates (R91, R92) -/

theorem toNat_low4 {k : Nat} (field : BitVec k) : (field.extractLsb' 0 4).toNat = field.toNat % 16 := by
  simp [BitVec.extractLsb'_toNat]

theorem toNat_effImm_prefixed {s : State} (h : s.immv = true) (low4 : BitVec 4) (native : Word) :
    (effImm s low4 native).toNat = 16 * s.imm12.toNat + low4.toNat := by
  rw [effImm_prefixed h, toNat_imm12_append]

theorem immRi6_native {s : State} (h : s.immv = false) (imm6 : BitVec 6) : immRi6 s imm6 = imm6.signExtend 16 :=
  effImm_native h _ _

/-- Behind an `imm` with the upper twelve bits of `v`, a field with its low four bits gives `v`. -/
theorem immRi8_of_upper_bits {s : State} {v : Word} {imm8 : BitVec 8} (himmv : s.immv = true)
    (hup : s.imm12 = BitVec.ofNat 12 (v.toNat / 16)) (hlow : imm8.toNat % 16 = v.toNat % 16) : immRi8 s imm8 = v := by
  have hlt : v.toNat / 16 < 2 ^ 12 := Nat.div_lt_of_lt_mul v.isLt
  apply BitVec.eq_of_toNat_eq
  rw [immRi8, toNat_effImm_prefixed himmv, toNat_low4, hup, hlow, BitVec.toNat_ofNat, Nat.mod_eq_of_lt hlt,
    Nat.div_add_mod]

/-! ## The instructions of the sequences -/

theorem exec_imm_of_noPrefix {s : State} (h : NoPrefix s) (v : BitVec 12) :
    exec (.imm v) s = .next (s.setImm v).advance :=
  admitted_of_none _ (admit_of_noPrefix _ h)

/-- An admitted instruction that ends in `writeBack` writes its result and nothing else. -/
theorem writesOnly_of_admitted {i : Instr} {s : State} {rd : RegNum} {v : Word} (ha : admission i s = none)
    (he : exec i s = admitted i s (writeBack s rd v)) : ∃ t, exec i s = .next t ∧ WritesOnly rd v s t :=
  ⟨_, he.trans (admitted_of_none _ ha), writesOnly_retired s rd v⟩

theorem exec_moveRi8_writes {s : State} (hu : s.uc = false) (rd : RegNum) (imm8 : BitVec 8) :
    ∃ t, exec (.moveRi8 rd imm8) s = .next t ∧ WritesOnly rd (immRi8 s imm8) s t :=
  writesOnly_of_admitted (admit_of_immediate hu (by simp [Instr.format]) (by simp [Instr.format])) rfl

section
variable {s : State} (h : NoPrefix s) (rd : RegNum) (imm6 : BitVec 6)
include h

theorem exec_xorRi6_writes :
    ∃ t, exec (.xorRi6 rd imm6) s = .next t ∧ WritesOnly rd (s.reg rd ^^^ imm6.signExtend 16) s t := by
  rw [← immRi6_native h.1 imm6]
  exact writesOnly_of_admitted (admit_of_noPrefix _ h) rfl

theorem exec_shlRi6_writes :
    ∃ t, exec (.shlRi6 rd imm6) s = .next t ∧ WritesOnly rd (shiftLeft (s.reg rd) (imm6.signExtend 16)) s t := by
  rw [← immRi6_native h.1 imm6]
  exact writesOnly_of_admitted (admit_of_noPrefix _ h) rfl

theorem exec_asrRi6_writes :
    ∃ t, exec (.asrRi6 rd imm6) s = .next t ∧ WritesOnly rd (shiftArith (s.reg rd) (imm6.signExtend 16)) s t := by
  rw [← immRi6_native h.1 imm6]
  exact writesOnly_of_admitted (admit_of_noPrefix _ h) rfl

theorem exec_addRi6_writes :
    ∃ t, exec (.addRi6 rd imm6) s = .next t ∧ WritesOnly rd (s.reg rd + imm6.signExtend 16) s t := by
  have hsum : BitVec.ofNat 16 (exactSum (s.reg rd) (immRi6 s imm6) s.cin) = s.reg rd + imm6.signExtend 16 := by
    simp [exactSum, cin_eq, h.2, immRi6_native h.1, BitVec.ofNat_add]
  rw [← hsum]
  exact writesOnly_of_admitted (admit_of_noPrefix _ h) rfl

end

/-! ## Sequences -/

theorem WritesOnly.noPrefix {rd : RegNum} {v : Word} {s t : State} (h : WritesOnly rd v s t) : NoPrefix t := by
  obtain ⟨-, -, -, ⟨himmv, huc, -⟩, -⟩ := h
  exact ⟨himmv, huc⟩

theorem execAll_cons_of_next {i : Instr} {s t : State} (h : exec i s = .next t) (rest : List Instr) :
    execAll (i :: rest) s = execAll rest t := by
  simp only [execAll, h]

theorem execAll_singleton_of_next {i : Instr} {s t : State} (h : exec i s = .next t) : execAll [i] s = .next t :=
  execAll_cons_of_next h []

theorem execAll_pair_of_next {i j : Instr} {s t u : State} (hi : exec i s = .next t) (hj : exec j t = .next u) :
    execAll [i, j] s = .next u :=
  (execAll_cons_of_next hi [j]).trans (execAll_singleton_of_next hj)

/-- Two writes to one register: the second result stays, and no other register changes. -/
theorem WritesOnly.then {rd : RegNum} {v v' : Word} {s t u : State} (h : WritesOnly rd v s t)
    (h' : WritesOnly rd v' t u) : u.reg rd = v' ∧ SameRegsBut rd s u := by
  obtain ⟨-, hothers, -⟩ := h
  obtain ⟨hval, hothers', -⟩ := h'
  exact ⟨hval, fun r hr => (hothers' r hr).trans (hothers r hr)⟩

/-! ## The results of the pseudo-instructions (R103) -/

theorem xor_minus_one (x : Word) : x ^^^ (-1 : BitVec 6).signExtend 16 = ~~~x := by
  have hones : (-1 : BitVec 6).signExtend 16 = BitVec.allOnes 16 := by decide
  rw [hones, BitVec.xor_allOnes]

theorem not_add_one (x : Word) : ~~~x + (1 : BitVec 6).signExtend 16 = -x :=
  (BitVec.neg_eq_not_add x).symm

/-- Eight places left and eight places arithmetically right leave the low byte, sign extended. -/
theorem shiftArith_shiftLeft_eight (x : Word) :
    shiftArith (shiftLeft x ((8 : BitVec 6).signExtend 16)) ((8 : BitVec 6).signExtend 16) =
      (BitVec.ofNat 8 x.toNat).signExtend 16 := by
  have height : (8 : BitVec 6).signExtend 16 = 8#16 := by decide
  rw [height]
  change (x <<< 8).sshiftRight 8 = (BitVec.ofNat 8 x.toNat).signExtend 16
  rw [BitVec.ofNat_toNat]
  apply BitVec.eq_of_getLsbD_eq
  intro i h
  simp only [BitVec.getLsbD_sshiftRight, BitVec.getLsbD_signExtend]
  interval_cases i <;> simp [BitVec.msb_eq_getLsbD_last]

end Sys2Proof.Machine

/-! ## The obligations -/

open Sys2Proof Sys2Proof.Machine

/-- Settles O2: each field reads back as the format builder wrote it, and a reserved word is alone in its row with its
constructor. -/
theorem decodeOfEncodeIsIdentity : Obligations.DecodeOfEncodeIsIdentity :=
  fun _ hwf => decode_encode hwf

/-- Settles O3: format by format a word is rebuilt from its fields; the bits read contain the row's, so words that agree
on them lie in one row. -/
theorem encodeOfDecodeDropsOnlyNaFields : Obligations.EncodeOfDecodeDropsOnlyNaFields :=
  ⟨readFrom_decode, fun _ _ h => decode_eq_of_and_readBits h⟩

/-- Settles O4: the row of the decoded instruction holds the word, and no two rows share a word. -/
theorem everyWordLiesInOneRow : Obligations.EveryWordLiesInOneRow :=
  fun w => ⟨decode_in_row w, fun _ h => (row_decode_eq h).symm⟩

/-- Settles O9: a word in a reserved row is the word of its reserved constructor, whose meaning refuses it before
`SKIP` is looked at. -/
theorem reservedWordsAreRefused : Obligations.ReservedWordsAreRefused := by
  intro s w hs hw
  refine ⟨fun h => ?_, fun h => ?_, fun h => ?_⟩
  · exact step_of_isReserved (i := .reservedOp9or11 w) rfl (beq_iff_eq.mpr h) hs hw
  · exact step_of_isReserved (i := .reservedOp12to15 w) rfl (beq_iff_eq.mpr h) hs hw
  · exact step_of_isReserved (i := .reservedBit7 w) rfl (beq_iff_eq.mpr h) hs hw

/-- Settles O31: all four formats append their low four bits to `IMM12`. -/
theorem immediatesUnderAPrefix : Obligations.ImmediatesUnderAPrefix := by
  intro s imm4 imm6 imm8 imm11 h
  refine ⟨toNat_effImm_prefixed h _ _, ?_, ?_, ?_⟩
  · rw [immRi6, toNat_effImm_prefixed h, toNat_low4]
  · rw [immRi8, toNat_effImm_prefixed h, toNat_low4]
  · rw [immI11, toNat_effImm_prefixed h, toNat_low4]

/-- Settles O56: the `move` finds the upper twelve bits of the constant in `IMM12` and appends the low four. -/
theorem immThenMoveLoadsAnyConstant : Obligations.ImmThenMoveLoadsAnyConstant := by
  intro s rd v imm8 hn hlow
  obtain ⟨t, hmove, hval, hothers, hpc, hended, -⟩ :=
    exec_moveRi8_writes (s := (s.setImm (BitVec.ofNat 12 (v.toNat / 16))).advance) hn.2 rd imm8
  rw [immRi8_of_upper_bits rfl rfl hlow] at hval
  exact ⟨t, execAll_pair_of_next (exec_imm_of_noPrefix hn _) hmove, hval, hothers, hpc.trans (BitVec.add_assoc _ _ _),
    hended⟩

/-- Settles O57: each of the two-instruction sequences writes `rd` twice, from a state where no prefix is pending. -/
theorem notNegSxtIdioms : Obligations.NotNegSxtIdioms := by
  intro s rd hn
  obtain ⟨t, hxor, hnot⟩ := exec_xorRi6_writes hn rd (-1)
  rw [xor_minus_one] at hnot
  have ⟨hregt, hothers, _⟩ := hnot
  refine ⟨⟨t, execAll_singleton_of_next hxor, hregt, hothers⟩, ?_, ?_⟩
  · obtain ⟨u, hadd, hneg⟩ := exec_addRi6_writes hnot.noPrefix rd 1
    rw [hregt, not_add_one] at hneg
    exact ⟨u, execAll_pair_of_next hxor hadd, hnot.then hneg⟩
  · obtain ⟨p, hshl, hleft⟩ := exec_shlRi6_writes hn rd 8
    obtain ⟨u, hasr, hright⟩ := exec_asrRi6_writes hleft.noPrefix rd 8
    have ⟨hregp, _⟩ := hleft
    rw [hregp, shiftArith_shiftLeft_eight] at hright
    obtain ⟨hreg, hothers⟩ := hleft.then hright
    refine ⟨u, execAll_pair_of_next hshl hasr, ?_, hothers⟩
    rw [hreg, BitVec.toInt_signExtend_of_le (by decide)]

/-- Settles O1: the decoder runs on each word. -/
theorem specWordsDecode : Obligations.SpecWordsDecode := by
  unfold Obligations.SpecWordsDecode
  decide

/-- Settles O32: without a prefix the immediate is the native one, and extension keeps its value. -/
theorem nativeImmediates : Obligations.NativeImmediates := by
  intro s imm4 imm6 imm8 imm11 h
  refine ⟨?_, ?_, ?_, ?_⟩
  · rw [immLs, effImm_native h, BitVec.toNat_setWidth_of_le (by decide)]
  · rw [immRi6, effImm_native h, BitVec.toInt_signExtend_of_le (by decide)]
  · rw [immRi8, effImm_native h, BitVec.toInt_signExtend_of_le (by decide)]
  · rw [immI11, effImm_native h, BitVec.toInt_signExtend_of_le (by decide)]

end

section
/-! The family of 40_system.md: admission by the pending prefix state and what is refused (R122), the prefix state behind an
executed instruction (R123), the prefix instructions by their words (R124), and the system instructions (R125 to R131). -/

namespace Sys2Proof.Machine

/-! ## Admission (R122): each of its answers, and where a refusal comes from -/

section
variable {i : Instr} {s : State}

theorem admission_eq_immAfterImm (hm : s.immv = true) (h12 : i.format = .i12) :
    admission i s = some .immAfterImm := by
  simp [admission, hm, h12]

theorem admission_eq_immBeforeRr (hm : s.immv = true) (hrr : i.format = .rr) :
    admission i s = some .immBeforeRr := by
  simp [admission, hm, hrr]

theorem admission_eq_immAfterCarry (hu : s.uc = true) (hm : s.immv = false) (h12 : i.format = .i12) :
    admission i s = some .immAfterCarry := by
  simp [admission, hu, hm, h12]

theorem admission_eq_carryBeforeOther (hu : s.uc = true) (hrr : s.immv = false ∨ i.format ≠ .rr)
    (h12 : i.format ≠ .i12) (hc : i.usesCarry = false) : admission i s = some .carryBeforeOther := by
  obtain hm | hrr := hrr
  · simp [admission, hm, hu, h12, hc]
  · simp [admission, hrr, hu, h12, hc]

/-- The one i12 instruction is `imm`. -/
theorem usesCarry_of_format_i12 (h12 : i.format = .i12) : i.usesCarry = false := by
  cases i
  case imm => rfl
  all_goals cases h12

theorem prefix_pending_of_admission_eq_some {r : Refusal} (h : admission i s = some r) :
    (s.immv = true ∧ (i.format = .i12 ∨ i.format = .rr)) ∨ (s.uc = true ∧ i.usesCarry = false) := by
  simp only [admission, Bool.and_eq_true, beq_iff_eq, Bool.not_eq_true'] at h
  split at h
  · next hc => exact .inl ⟨hc.1, .inl hc.2⟩
  split at h
  · next hc => exact .inl ⟨hc.1, .inr hc.2⟩
  split at h
  · next hc => exact .inr ⟨hc.1, usesCarry_of_format_i12 hc.2⟩
  split at h
  · next hc => exact .inr hc
  · cases h

/-- Every meaning but those of the reserved words asks admission first, and what it then does refuses for `rets` alone. -/
theorem exec_eq_admitted (s : State) (hr : i.isReserved = false) :
    ∃ e, exec i s = admitted i s e ∧ ∀ r, e = .refused r → i = .rets := by
  cases i
  case rets => exact ⟨_, rfl, fun _ _ => rfl⟩
  case load => exact ⟨_, rfl, fun r h => absurd h (loadInto_ne_refused _ _ _ r)⟩
  case loadb => exact ⟨_, rfl, fun r h => absurd h (loadInto_ne_refused _ _ _ r)⟩
  case reservedOp9or11 => cases hr
  case reservedOp12to15 => cases hr
  case reservedBit7 => cases hr
  all_goals exact ⟨_, rfl, fun _ h => nomatch h⟩

theorem exec_refused_of_admission {r : Refusal} (hr : i.isReserved = false) (ha : admission i s = some r) :
    exec i s = .refused r := by
  obtain ⟨e, he, -⟩ := exec_eq_admitted s hr
  exact he.trans (admitted_eq_refused.mpr (.inl ha))

end

/-! ## The prefix state behind an executed instruction (R123) -/

/-- Every effect but those of `imm`, `addc`, `subc`, `halt` and `error` ends the prefix state. -/
theorem Effect.prefixEnded {i : Instr} {s t : State} (h : Effect i s t) (hp : i.isPrefix = false) (hhalt : i ≠ .halt)
    (herror : i ≠ .error) : PrefixEnded t := by
  cases h with
  | carry _ _ _ _ hp' => simp [hp] at hp'
  | imm v hi => simp [hi, Instr.isPrefix] at hp
  | halt hi => exact absurd hi hhalt
  | error hi => exact absurd hi herror
  | _ => exact ⟨rfl, rfl, rfl⟩

section
variable {i : Instr} {s t : State} {rd : RegNum} {b : Word}

theorem writesWithCarry_of_addCarryWord (h : admitted i s (addCarryWord s rd b) = .next t) :
    WritesWithCarry rd (BitVec.ofNat 16 (exactSum (s.reg rd) b s.cin))
      (decide (65536 ≤ (s.reg rd).toNat + b.toNat + s.cin)) s t := by
  obtain ⟨-, h⟩ := admitted_eq_next.mp h
  cases h
  exact writesWithCarry_set s rd _ _

theorem writesWithCarry_of_subBorrowWord (h : admitted i s (subBorrowWord s rd b) = .next t) :
    WritesWithCarry rd (BitVec.ofInt 16 (exactDiff (s.reg rd) b s.cin))
      (decide ((s.reg rd).toNat < b.toNat + s.cin)) s t := by
  obtain ⟨-, h⟩ := admitted_eq_next.mp h
  cases h
  rw [← borrowOut_exactDiff]
  exact writesWithCarry_set s rd _ _

theorem WritesWithCarry.c_eq {v : Word} {carry : Bool} (h : WritesWithCarry rd v carry s t) : t.c = carry := by
  obtain ⟨-, hc, -⟩ := h
  exact hc

theorem WritesWithCarry.carry_pending {v : Word} {carry : Bool} (h : WritesWithCarry rd v carry s t) :
    t.immv = false ∧ t.uc = true := by
  obtain ⟨-, -, hu, hm, -⟩ := h
  exact ⟨hm, hu⟩

theorem carry_pending_of_exec_isPrefix (h : exec i s = .next t) (hp : i.isPrefix = true) (himm : ∀ v, i ≠ .imm v) :
    t.immv = false ∧ t.uc = true := by
  obtain ⟨v, rfl⟩ | ⟨rd, rs, rfl | rfl⟩ | ⟨rd, imm6, rfl | rfl⟩ := (isPrefix_iff i).mp hp
  · exact absurd rfl (himm v)
  · exact (writesWithCarry_of_addCarryWord h).carry_pending
  · exact (writesWithCarry_of_subBorrowWord h).carry_pending
  · exact (writesWithCarry_of_addCarryWord h).carry_pending
  · exact (writesWithCarry_of_subBorrowWord h).carry_pending

theorem exec_imm_eq_next {v : BitVec 12} (h : exec (.imm v) s = .next t) : t = (s.setImm v).advance := by
  obtain ⟨-, h⟩ := admitted_eq_next.mp h
  cases h
  rfl

theorem exec_halt_eq_next (h : exec .halt s = .next t) : NoPrefix s ∧ t = s.assertHalt := by
  obtain ⟨ha, h⟩ := admitted_eq_next.mp h
  cases h
  exact ⟨noPrefix_of_admit_rr ha rfl rfl, rfl⟩

theorem exec_error_eq_next (h : exec .error s = .next t) : NoPrefix s ∧ t = s.assertError := by
  obtain ⟨ha, h⟩ := admitted_eq_next.mp h
  cases h
  exact ⟨noPrefix_of_admit_rr ha rfl rfl, rfl⟩

end

/-! ## The prefix instructions by their words (R124) -/

theorem row_decode_eq_iff (w : Word) (i : Instr) : (decode w).row = i.row ↔ w &&& i.row.1 = i.row.2 :=
  ⟨fun h => h ▸ decode_in_row w, row_decode_eq⟩

/-- Five rows of the opcode table hold the prefix instructions. -/
theorem isPrefix_iff_row (i : Instr) :
    i.isPrefix = true ↔ i.row = (Instr.imm 0).row ∨ i.row = (Instr.addcRr 0 0).row ∨ i.row = (Instr.addcRi6 0 0).row ∨
      i.row = (Instr.subcRr 0 0).row ∨ i.row = (Instr.subcRi6 0 0).row := by
  cases i <;> simp [Instr.isPrefix, Instr.row]

theorem isPrefix_decode_iff (w : Word) : (decode w).isPrefix = true ↔ IsPrefixWord w := by
  simp only [isPrefix_iff_row, row_decode_eq_iff]
  rfl

end Sys2Proof.Machine

/-! ## The obligations -/

open Sys2Proof Sys2Proof.Machine

/-- Settles O11: `imm`, `addc`, `subc`, `halt` and `error` by their meanings; of all other effects each ends the prefix
state. -/
theorem prefixStateAfterExecution : Obligations.PrefixStateAfterExecution := by
  intro i s t h
  refine ⟨?_, carry_pending_of_exec_isPrefix h, ?_, ?_, ?_, ?_, ?_, (exec_effect h).prefixEnded⟩
  · rintro v rfl
    rw [exec_imm_eq_next h]
    exact ⟨rfl, rfl, rfl⟩
  · rintro rd rs rfl
    exact (writesWithCarry_of_addCarryWord h).c_eq
  · rintro rd imm6 rfl
    exact (writesWithCarry_of_addCarryWord h).c_eq
  · rintro rd rs rfl
    exact (writesWithCarry_of_subBorrowWord h).c_eq
  · rintro rd imm6 rfl
    exact (writesWithCarry_of_subBorrowWord h).c_eq
  · rintro (rfl | rfl)
    · obtain ⟨hn, rfl⟩ := exec_halt_eq_next h
      exact ⟨hn.1, hn.2, rfl⟩
    · obtain ⟨hn, rfl⟩ := exec_error_eq_next h
      exact ⟨hn.1, hn.2, rfl⟩

/-- Settles O12: every meaning but those of the reserved words passes on what admission answers. -/
theorem undefinedPrefixSequencesAreRefused : Obligations.UndefinedPrefixSequencesAreRefused :=
  fun _ _ hr =>
    ⟨fun hm h12 => exec_refused_of_admission hr (admission_eq_immAfterImm hm h12),
      fun hm hrr => exec_refused_of_admission hr (admission_eq_immBeforeRr hm hrr),
      fun hu hm h12 => exec_refused_of_admission hr (admission_eq_immAfterCarry hu hm h12),
      fun hu hrr h12 hc => exec_refused_of_admission hr (admission_eq_carryBeforeOther hu hrr h12 hc)⟩

/-- Settles O13: what is neither reserved nor `rets` is refused by admission alone. -/
theorem nothingElseIsRefused : Obligations.NothingElseIsRefused := by
  intro i s r h
  cases hr : i.isReserved with
  | true => exact .inl rfl
  | false =>
    obtain ⟨e, he, hrets⟩ := exec_eq_admitted s hr
    obtain ha | ⟨-, hrefused⟩ := admitted_eq_refused.mp (he.symm.trans h)
    · exact .inr (.inr (prefix_pending_of_admission_eq_some ha))
    · exact .inr (.inl (hrets r hrefused))

/-- Settles O34: the line asserted is what stops the core. -/
theorem haltAndErrorStopInPlace : Obligations.HaltAndErrorStopInPlace :=
  fun s hn => ⟨⟨_, exec_halt_of_noPrefix hn, rfl, runFor_of_stopped (by simp [State.stopped])⟩,
    ⟨_, exec_error_of_noPrefix hn, rfl, runFor_of_stopped (by simp [State.stopped])⟩⟩

/-- Settles O5: the branch of `step` that fetches and does not skip. -/
theorem stepExecutesTheDecodedInstruction : Obligations.StepExecutesTheDecodedInstruction :=
  fun _ _ hs hk hw => step_of_exec hs hk hw

/-- Settles O10: behind a prefix `rets` is refused by admission, else by its own meaning. -/
theorem retsAndReservedRefuse : Obligations.RetsAndReservedRefuse := by
  intro s w
  refine ⟨?_, fun hn => admitted_of_none _ (admit_of_noPrefix .rets hn), rfl, rfl, rfl⟩
  cases ha : admission .rets s with
  | none => exact ⟨_, admitted_of_none _ ha⟩
  | some r => exact ⟨r, exec_refused_of_admission rfl ha⟩

/-- Settles O33: with no prefix pending both are admitted. -/
theorem nopAndImm : Obligations.NopAndImm :=
  fun s v hn => ⟨⟨_, admitted_of_none _ (admit_of_noPrefix .nop hn), advancesOnly_retired s⟩,
    ⟨_, exec_imm_of_noPrefix hn v, rfl, rfl, rfl, rfl, rfl, rfl, rfl, rfl, fun _ => rfl, rfl, fun _ => rfl, fun _ => rfl⟩⟩

/-- Settles O35: from the state with the new CSR file, `rcsr` writes `rd` only and `wcsr` advances only. -/
theorem csrInstructions : Obligations.CsrInstructions := by
  intro s rd n hn
  constructor
  · obtain ⟨hreg, hothers, hpc, hended, hmem, hlines, hskip, hcsr⟩ :=
      writesOnly_retired (s.setCsrFile (Config.csrReadNext s.csrFile n)) rd (Config.csrRead s.csrFile n)
    exact ⟨_, admitted_of_none _ (admit_of_noPrefix (.rcsr rd n) hn), hreg, hothers, hcsr, hpc, hended, hmem, hlines, hskip⟩
  · obtain ⟨hregs, hpc, hended, hmem, hlines, hskip, hcsr⟩ :=
      advancesOnly_retired (s.setCsrFile (Config.csrWrite s.csrFile n (s.reg rd)))
    exact ⟨_, admitted_of_none _ (admit_of_noPrefix (.wcsr n rd) hn), hregs, hcsr, hpc, hended, hmem, hlines, hskip⟩

/-- Settles O59: a word is a prefix word exactly if its row is that of a prefix instruction, and behind a skipped word
`SKIP` is `isPrefix` of what it decodes to. -/
theorem prefixInstructionsAreExactlyImmAddcSubc : Obligations.PrefixInstructionsAreExactlyImmAddcSubc :=
  fun w => ⟨isPrefix_decode_iff w, fun _ hs hk hw hr => ⟨_, step_of_skip hs hk hw hr, isPrefix_decode_iff w⟩⟩

end

section
/-! The family of 41_move.md: `move` and `loadc` (R140 to R143). -/

open Sys2Proof Sys2Proof.Machine

/-- Settles O36: the register form is admitted with no prefix pending, the immediate form unless a carry is pending; both
end in `writeBack`. -/
theorem moveResults : Obligations.MoveResults :=
  fun _ rd _ imm8 => ⟨fun hn => writesOnly_of_admitted (admit_of_noPrefix _ hn) rfl,
    fun hu => exec_moveRi8_writes hu rd imm8⟩

/-- Settles O37: admitted as `move` is, `loadc` writes back what the constant memory holds at the operand. -/
theorem loadcResults : Obligations.LoadcResults :=
  fun _ _ _ _ => ⟨fun hn => writesOnly_of_admitted (admit_of_noPrefix _ hn) rfl,
    fun hu => writesOnly_of_admitted (admit_of_immediate hu (by simp [Instr.format]) (by simp [Instr.format])) rfl⟩

end

section
/-! The family of 42_branches.md: `jump` and `call` (R150 to R155), and the return behind a `call`. -/

namespace Sys2Proof.Machine

section
variable {i : Instr} {s : State}

/-- An i11 instruction is admitted unless a carry is pending (R122). -/
theorem admit_of_format_i11 (hu : s.uc = false) (hf : i.format = .i11) : admission i s = none :=
  admit_of_immediate hu (by simp [hf]) (by simp [hf])

theorem jumpsOnly_of_admitted {target : Word} (ha : admission i s = none)
    (he : exec i s = admitted i s (.next (s.endPrefixState.jumpTo target))) :
    ∃ t, exec i s = .next t ∧ JumpsOnly target s t :=
  ⟨_, he.trans (admitted_of_none _ ha), jumpsOnly_jumped s target⟩

theorem callsOnly_of_admitted {target : Word} (ha : admission i s = none)
    (he : exec i s = admitted i s (.next ((s.setReg 0#4 s.pcn).endPrefixState.jumpTo target))) :
    ∃ t, exec i s = .next t ∧ CallsOnly target s t :=
  ⟨_, he.trans (admitted_of_none _ ha), callsOnly_called s target⟩

theorem exec_jumpRr_jumps (hn : NoPrefix s) (rd : RegNum) :
    ∃ t, exec (.jumpRr rd) s = .next t ∧ JumpsOnly (s.reg rd) s t :=
  jumpsOnly_of_admitted (admit_of_noPrefix _ hn) rfl

/-- The two forms of `call` differ in the target alone. -/
theorem exec_call_eq_admitted (s : State) (hi : (∃ rd, i = .callRr rd) ∨ ∃ imm11, i = .callI11 imm11) :
    ∃ target, exec i s = admitted i s (.next ((s.setReg 0#4 s.pcn).endPrefixState.jumpTo target)) := by
  obtain ⟨rd, rfl⟩ | ⟨imm11, rfl⟩ := hi
  · exact ⟨s.reg rd, rfl⟩
  · exact ⟨relTarget s imm11, rfl⟩

/-- `r0` behind a `call` of either form holds the address of the next instruction (R153, R154). -/
theorem reg_zero_of_exec_call {u : State} (hi : (∃ rd, i = .callRr rd) ∨ ∃ imm11, i = .callI11 imm11)
    (h : exec i s = .next u) : u.reg 0#4 = s.pc + 1#16 := by
  obtain ⟨target, he⟩ := exec_call_eq_admitted s hi
  obtain ⟨-, hu⟩ := admitted_eq_next.mp (he.symm.trans h)
  cases hu
  exact (callsOnly_called s target).1

end

end Sys2Proof.Machine

/-! ## The obligations -/

open Sys2Proof Sys2Proof.Machine

/-- Settles O40: `jump r0` goes to `r0`, which still holds what the `call` saved. -/
theorem returnResumesAfterTheCall : Obligations.ReturnResumesAfterTheCall := by
  intro s u v i hi hcall hn hr0
  have hsaved : v.reg 0#4 = s.pc + 1#16 := hr0.trans (reg_zero_of_exec_call hi hcall)
  rw [← hsaved]
  exact exec_jumpRr_jumps hn 0#4

/-- Settles O38: the register form is admitted with no prefix pending, the relative form unless a carry is pending. -/
theorem jumpResults : Obligations.JumpResults :=
  fun _ rd _ => ⟨fun hn => exec_jumpRr_jumps hn rd, fun hu => jumpsOnly_of_admitted (admit_of_format_i11 hu rfl) rfl⟩

/-- Settles O39: admitted as `jump` is; the register form reads its target in the state before `r0` is written. -/
theorem callResults : Obligations.CallResults :=
  fun _ _ _ => ⟨fun hn => callsOnly_of_admitted (admit_of_noPrefix _ hn) rfl,
    fun hu => callsOnly_of_admitted (admit_of_format_i11 hu rfl) rfl⟩

end

section
/-! The family of 43_load_store.md: what each of the four instructions answers, and its whole frame (R160 to R164). -/

namespace Sys2Proof.Machine

/-! ## Loads that meet a byte without a value (U16, log 6) -/

/-- A word of which a byte holds no value does not read. -/
theorem State.readWord_eq_none {s : State} {a : Word} (h : s.readByte a = none ∨ s.readByte (a + 1#16) = none) :
    s.readWord a = none := by
  obtain h | h := h <;> simp [State.readWord, h]

section
variable {s : State} (hu : s.uc = false) (rd rs : RegNum) (imm4 : BitVec 4)
include hu

theorem exec_load_faults (hv : s.readWord (wordAddr s rs imm4) = none) :
    exec (.load rd rs imm4) s = .fault .noByte :=
  admitted_eq_fault.mpr ⟨admit_of_format_ls hu rfl, loadInto_eq_fault.mpr ⟨hv, rfl⟩⟩

theorem exec_loadb_faults (hb : s.readByte (byteAddr s rs imm4) = none) :
    exec (.loadb rd rs imm4) s = .fault .noByte :=
  admitted_eq_fault.mpr ⟨admit_of_format_ls hu rfl, loadInto_eq_fault.mpr ⟨congrArg (Option.map _) hb, rfl⟩⟩

end

end Sys2Proof.Machine

/-! ## The obligations -/

open Sys2Proof Sys2Proof.Machine

/-- Settles O41: the two bytes make the word that `rd` receives; without one of them there is no word to load. -/
theorem loadResult : Obligations.LoadResult := by
  intro s rd rs imm4 hu
  constructor
  · intro b0 b1 h0 h1
    exact ⟨_, _, exec_load_of_uc hu rd rs imm4 (State.readWord_of_bytes h0 h1), writesOnly_retired s rd _,
      toNat_joinBytes Config.byteOrder b0 b1⟩
  · intro hnone
    exact exec_load_faults hu rd rs imm4 (State.readWord_eq_none hnone)

/-- Settles O42: the write changes its word alone, and retiring from there only advances. -/
theorem storeResult : Obligations.StoreResult := by
  intro s rd rs imm4 hu
  have hexec := exec_store_of_uc hu rd rs imm4
  obtain ⟨hregs, hpc, hended, -, hcontrol⟩ := advancesOnly_retired (s.writeWord (wordAddr s rs imm4) (s.reg rd))
  exact ⟨_, hexec, readWord_of_exec_store hexec, sameMemoryButWord_writeWord s _ _, hregs, hpc, hended, hcontrol⟩

/-- Settles O43: sign extension is by definition the word of the byte's signed value; without the byte there is nothing to
load. -/
theorem loadbResult : Obligations.LoadbResult :=
  fun s rd rs imm4 hu =>
    ⟨fun b hb => ⟨_, exec_loadb_of_uc hu rd rs imm4 hb, writesOnly_retired s rd (b.signExtend 16)⟩,
      exec_loadb_faults hu rd rs imm4⟩

/-- Settles O44: the write changes its byte alone, and retiring from there only advances. -/
theorem storebResult : Obligations.StorebResult := by
  intro s rd rs imm4 hu
  obtain ⟨hregs, hpc, hended, -, hcontrol⟩ :=
    advancesOnly_retired (s.writeByte (byteAddr s rs imm4) ((s.reg rd).extractLsb' 0 8))
  exact ⟨_, _, exec_storeb_of_uc hu rd rs imm4, State.readByte_writeByte_same s _ _, toNat_extract_low _,
    sameMemoryButByte_writeByte s _ _, hregs, hpc, hended, hcontrol⟩

end

section
/-! The family of 44_arithmetic.md: `add`, `sub`, `addc`, `subc` (R170 to R180), and the chains of words (R181). -/

namespace Sys2Proof.Machine

/-! ## Admission and results of the four instructions (R122, R172 to R180) -/

section
variable {i : Instr} {s : State} {rd : RegNum} {b : Word}

theorem admit_of_usesCarry_rr (hc : i.usesCarry = true) (hf : i.format = .rr) (hm : s.immv = false) :
    admission i s = none :=
  admit_of_usesCarry hc (by simp [hf]) (.inr hm)

theorem admit_of_usesCarry_ri6 (hc : i.usesCarry = true) (hf : i.format = .ri6) : admission i s = none :=
  admit_of_usesCarry hc (by simp [hf]) (.inl (by simp [hf]))

/-- An admitted `addc` writes the sum and its carry out. -/
theorem writesWithCarry_of_admitted_addc (ha : admission i s = none)
    (he : exec i s = admitted i s (addCarryWord s rd b)) :
    ∃ t, exec i s = .next t ∧ WritesWithCarry rd (BitVec.ofNat 16 ((s.reg rd).toNat + b.toNat + s.cin))
      (decide (65535 < (s.reg rd).toNat + b.toNat + s.cin)) s t := by
  rw [← carryOut_exactSum]
  exact ⟨_, he.trans (admitted_of_none _ ha), writesWithCarry_set s rd _ _⟩

/-- An admitted `subc` writes the difference and its borrow out. -/
theorem writesWithCarry_of_admitted_subc (ha : admission i s = none)
    (he : exec i s = admitted i s (subBorrowWord s rd b)) :
    ∃ t, exec i s = .next t ∧ WritesWithCarry rd (BitVec.ofInt 16 ((s.reg rd).toNat - b.toNat - s.cin))
      (decide ((s.reg rd).toNat < b.toNat + s.cin)) s t := by
  rw [← borrowOut_exactDiff]
  exact ⟨_, he.trans (admitted_of_none _ ha), writesWithCarry_set s rd _ _⟩

end

section
variable {s : State} (hm : s.immv = false) (rd rs : RegNum)
include hm

theorem exec_addRr_writes : ∃ t, exec (.addRr rd rs) s = .next t ∧
    WritesOnly rd (BitVec.ofNat 16 ((s.reg rd).toNat + (s.reg rs).toNat + s.cin)) s t :=
  writesOnly_of_admitted (admit_of_usesCarry_rr rfl rfl hm) rfl

theorem exec_subRr_writes : ∃ t, exec (.subRr rd rs) s = .next t ∧
    WritesOnly rd (BitVec.ofInt 16 ((s.reg rd).toNat - (s.reg rs).toNat - s.cin)) s t :=
  writesOnly_of_admitted (admit_of_usesCarry_rr rfl rfl hm) rfl

theorem exec_addcRr_writes : ∃ t, exec (.addcRr rd rs) s = .next t ∧
    WritesWithCarry rd (BitVec.ofNat 16 ((s.reg rd).toNat + (s.reg rs).toNat + s.cin))
      (decide (65535 < (s.reg rd).toNat + (s.reg rs).toNat + s.cin)) s t :=
  writesWithCarry_of_admitted_addc (admit_of_usesCarry_rr rfl rfl hm) rfl

theorem exec_subcRr_writes : ∃ t, exec (.subcRr rd rs) s = .next t ∧
    WritesWithCarry rd (BitVec.ofInt 16 ((s.reg rd).toNat - (s.reg rs).toNat - s.cin))
      (decide ((s.reg rd).toNat < (s.reg rs).toNat + s.cin)) s t :=
  writesWithCarry_of_admitted_subc (admit_of_usesCarry_rr rfl rfl hm) rfl

end

/-! ## One word: the low 16 bits and the carry or borrow make up the mathematical result (R180)

The equations have the form of `CombinesWord` below, a sign before what is added or subtracted. -/

theorem cin_le_one (s : State) : s.cin ≤ 1 := by
  rw [cin_eq]
  split <;> decide

theorem cin_eq_zero {s : State} (h : s.uc = false) : s.cin = 0 := by
  simp [cin_eq, h]

theorem WritesWithCarry.cin_eq {rd : RegNum} {v : Word} {carry : Bool} {s t : State}
    (h : WritesWithCarry rd v carry s t) : t.cin = carry.toNat := by
  cases carry <;> simp [State.cin, h.c_eq, h.carry_pending.2]

theorem sum_word_add_carry (a b : Word) {cin : Nat} (hcin : cin ≤ 1) :
    ((BitVec.ofNat 16 (a.toNat + b.toNat + cin)).toNat : Int) +
      1 * (65536 * (decide (65535 < a.toNat + b.toNat + cin)).toNat) = a.toNat + 1 * (b.toNat + cin) := by
  have ha := a.isLt
  have hb := b.isLt
  simp only [BitVec.toNat_ofNat, Bool.toNat, Bool.cond_decide]
  split <;> omega

theorem difference_word_sub_borrow (a b : Word) {cin : Nat} (hcin : cin ≤ 1) :
    ((BitVec.ofInt 16 (a.toNat - b.toNat - cin)).toNat : Int) +
      -1 * (65536 * (decide (a.toNat < b.toNat + cin)).toNat) = a.toNat + -1 * (b.toNat + cin) := by
  have ha := a.isLt
  have hb := b.isLt
  simp only [BitVec.toNat_ofInt, Bool.toNat, Bool.cond_decide]
  split <;> omega

/-! ## Chains of words (R181)

Addition and subtraction differ in a sign: `sign` is 1 for the one and -1 for the other. -/

/-- From `s` to `t` the word in `rs` and the carry in were added to `rd` (taken from it, for `sign = -1`), with the carry
(the borrow) `out`; no other register and no byte of memory changed. -/
structure CombinesWord (sign : Int) (rd rs : RegNum) (out : Nat) (s t : State) : Prop where
  result : ((t.reg rd).toNat : Int) + sign * (65536 * out) = (s.reg rd).toNat + sign * ((s.reg rs).toNat + s.cin)
  others : SameRegsBut rd s t
  memory : SameMemory s t

/-- On word pairs, with or without a carry pending, `link` hands its carry to its successor, and `last` ends the prefix
state. -/
structure IsChainOf (sign : Int) (link last : RegNum → RegNum → Instr) : Prop where
  link_combines : ∀ {s : State} (_ : s.immv = false) (rd rs : RegNum),
    ∃ t, exec (link rd rs) s = .next t ∧ t.immv = false ∧ CombinesWord sign rd rs t.cin s t
  last_combines : ∀ {s : State} (_ : s.immv = false) (rd rs : RegNum),
    ∃ t out, exec (last rd rs) s = .next t ∧ PrefixEnded t ∧ CombinesWord sign rd rs out s t

section
variable {sign : Int} {rd rs : RegNum} {v : Word} {s t : State}

theorem WritesWithCarry.combinesWord {carry : Bool} (h : WritesWithCarry rd v carry s t)
    (hv : (v.toNat : Int) + sign * (65536 * carry.toNat) = (s.reg rd).toNat + sign * ((s.reg rs).toNat + s.cin)) :
    t.immv = false ∧ CombinesWord sign rd rs t.cin s t := by
  have hcin := h.cin_eq
  obtain ⟨rfl, -, -, hm, hothers, -, hmem, -⟩ := h
  exact ⟨hm, by rwa [hcin], hothers, hmem⟩

theorem WritesOnly.combinesWord {out : Nat} (h : WritesOnly rd v s t)
    (hv : (v.toNat : Int) + sign * (65536 * out) = (s.reg rd).toNat + sign * ((s.reg rs).toNat + s.cin)) :
    PrefixEnded t ∧ CombinesWord sign rd rs out s t := by
  obtain ⟨rfl, hothers, -, hended, hmem, -⟩ := h
  exact ⟨hended, hv, hothers, hmem⟩

end

theorem isChainOf_addc_add : IsChainOf 1 .addcRr .addRr where
  link_combines {s} hm rd rs := by
    obtain ⟨t, hexec, hw⟩ := exec_addcRr_writes hm rd rs
    exact ⟨t, hexec, hw.combinesWord (sum_word_add_carry _ _ (cin_le_one s))⟩
  last_combines {s} hm rd rs := by
    obtain ⟨t, hexec, hw⟩ := exec_addRr_writes hm rd rs
    exact ⟨t, _, hexec, hw.combinesWord (sum_word_add_carry _ _ (cin_le_one s))⟩

theorem isChainOf_subc_sub : IsChainOf (-1) .subcRr .subRr where
  link_combines {s} hm rd rs := by
    obtain ⟨t, hexec, hw⟩ := exec_subcRr_writes hm rd rs
    exact ⟨t, hexec, hw.combinesWord (difference_word_sub_borrow _ _ (cin_le_one s))⟩
  last_combines {s} hm rd rs := by
    obtain ⟨t, hexec, hw⟩ := exec_subRr_writes hm rd rs
    exact ⟨t, _, hexec, hw.combinesWord (difference_word_sub_borrow _ _ (cin_le_one s))⟩

theorem wordsValue_congr {s t : State} {rs : List RegNum} (h : ∀ r ∈ rs, t.reg r = s.reg r) :
    wordsValue t rs = wordsValue s rs := by
  induction rs with
  | nil => rfl
  | cons r rest ih =>
    obtain ⟨hr, hrest⟩ := List.forall_mem_cons.mp h
    rw [wordsValue, wordsValue, hr, ih hrest]

theorem wordsValue_lt (s : State) (rs : List RegNum) : wordsValue s rs < 65536 ^ rs.length := by
  induction rs with
  | nil => exact Nat.one_pos
  | cons r rest ih =>
    have hr := (s.reg r).isLt
    rw [wordsValue, List.length_cons, Nat.pow_succ]
    omega

/-- What a chain leaves: the numbers combined up to a carry out of the last word, the other registers and memory as they
were, and no carry state. -/
structure CombinesWords (sign : Int) (ps : List (RegNum × RegNum)) (s t : State) : Prop where
  result : ∃ out : Nat, (wordsValue t (ps.map Prod.fst) : Int) + sign * (65536 ^ ps.length * out) =
    wordsValue s (ps.map Prod.fst) + sign * (wordsValue s (ps.map Prod.snd) + s.cin)
  others : ∀ r, r ∉ ps.map Prod.fst → t.reg r = s.reg r
  ended : PrefixEnded t
  memory : SameMemory s t

/-- A chain of one word is its last instruction. -/
theorem CombinesWord.single {sign : Int} {p : RegNum × RegNum} {out : Nat} {s t : State}
    (h : CombinesWord sign p.1 p.2 out s t) (hended : PrefixEnded t) : CombinesWords sign [p] s t where
  result := ⟨out, by simpa [wordsValue] using h.result⟩
  others r hr := h.others r (by simpa using hr)
  ended := hended
  memory := h.memory

/-- The first word of a chain and then the others, which read no register that the first changed. -/
theorem CombinesWord.cons {sign : Int} {p : RegNum × RegNum} {ps : List (RegNum × RegNum)} {s t u : State}
    (h : CombinesWord sign p.1 p.2 t.cin s t) (h' : CombinesWords sign ps t u)
    (hdst : p.1 ∉ ps.map Prod.fst) (hsrc : p.1 ∉ ps.map Prod.snd) : CombinesWords sign (p :: ps) s u where
  result := by
    have keeps : ∀ rs, p.1 ∉ rs → wordsValue t rs = wordsValue s rs := fun rs hp =>
      wordsValue_congr fun r hr => h.others r (ne_of_mem_of_not_mem hr hp)
    obtain ⟨out, hrest⟩ := h'.result
    have hfirst := h.result
    rw [keeps _ hdst, keeps _ hsrc] at hrest
    refine ⟨out, ?_⟩
    simp only [List.map_cons, wordsValue, List.length_cons, pow_succ, h'.others _ hdst]
    push_cast
    linear_combination hfirst + 65536 * hrest
  others r hr := by
    obtain ⟨hp, hps⟩ := not_or.mp (mt List.mem_cons.mpr hr)
    exact (h'.others r hps).trans (h.others r hp)
  ended := h'.ended
  memory a := (h'.memory a).trans (h.memory a)

/-- The chain rule (R181), with a carry in: by induction on the word pairs. -/
theorem IsChainOf.execAll_chain {sign : Int} {link last : RegNum → RegNum → Instr} (hchain : IsChainOf sign link last)
    {ps : List (RegNum × RegNum)} {s : State} (hne : ps ≠ []) (hdst : (ps.map Prod.fst).Nodup)
    (hsrc : ps.Pairwise fun earlier later => later.2 ≠ earlier.1) (hm : s.immv = false) :
    ∃ t, execAll (chain link last ps) s = .next t ∧ CombinesWords sign ps s t := by
  induction ps generalizing s with
  | nil => exact absurd rfl hne
  | cons p rest ih =>
    cases rest with
    | nil =>
      obtain ⟨t, out, hexec, hended, hword⟩ := hchain.last_combines hm p.1 p.2
      exact ⟨t, execAll_singleton_of_next hexec, hword.single hended⟩
    | cons q rest =>
      obtain ⟨hp, hdst⟩ := List.nodup_cons.mp hdst
      obtain ⟨hq, hsrc⟩ := List.pairwise_cons.mp hsrc
      obtain ⟨t, hexec, hm', hword⟩ := hchain.link_combines hm p.1 p.2
      obtain ⟨u, hrun, hwords⟩ := ih (List.cons_ne_nil q rest) hdst hsrc hm'
      refine ⟨u, (execAll_cons_of_next hexec _).trans hrun, hword.cons hwords hp ?_⟩
      rw [List.mem_map]
      rintro ⟨later, hmem, heq⟩
      exact hq later hmem heq

/-- Without a carry in, the destinations hold the result modulo 2^(16 k), since they hold a number below that. -/
theorem CombinesWords.result_mod {sign : Int} {ps : List (RegNum × RegNum)} {s t : State}
    (h : CombinesWords sign ps s t) (hu : s.uc = false) : (wordsValue t (ps.map Prod.fst) : Int) =
      (wordsValue s (ps.map Prod.fst) + sign * wordsValue s (ps.map Prod.snd)) % (65536 ^ ps.length : Nat) := by
  obtain ⟨out, hresult⟩ := h.result
  have hlt := wordsValue_lt t (ps.map Prod.fst)
  rw [List.length_map] at hlt
  rw [cin_eq_zero hu, Nat.cast_zero, add_zero] at hresult
  rw [← hresult, mul_left_comm]
  push_cast
  rw [Int.add_mul_emod_self_left, Int.emod_eq_of_lt (Int.natCast_nonneg _) (by exact_mod_cast hlt)]

end Sys2Proof.Machine

/-! ## The obligations -/

open Sys2Proof Sys2Proof.Machine

/-- Settles O46: an `imm` pending bars the register forms alone, and the results are the low words of the exact sum and
difference. -/
theorem addAndSubResults : Obligations.AddAndSubResults := by
  intro s rd rs imm6 cin hcin
  obtain rfl : cin = s.cin := hcin.trans (cin_eq s).symm
  exact ⟨fun hm => exec_addRr_writes hm rd rs, writesOnly_of_admitted (admit_of_usesCarry_ri6 rfl rfl) rfl,
    fun hm => exec_subRr_writes hm rd rs, writesOnly_of_admitted (admit_of_usesCarry_ri6 rfl rfl) rfl⟩

/-- Settles O47: admitted as `add` and `sub` are, `addc` and `subc` also keep bit 16 of the sum and the sign of the
difference. -/
theorem addcAndSubcResults : Obligations.AddcAndSubcResults := by
  intro s rd rs imm6 cin hcin
  obtain rfl : cin = s.cin := hcin.trans (cin_eq s).symm
  exact ⟨fun hm => exec_addcRr_writes hm rd rs,
    writesWithCarry_of_admitted_addc (admit_of_usesCarry_ri6 rfl rfl) rfl,
    fun hm => exec_subcRr_writes hm rd rs,
    writesWithCarry_of_admitted_subc (admit_of_usesCarry_ri6 rfl rfl) rfl⟩

/-- Settles O48, by the chain rule with sign 1. -/
theorem addcChainAddsMultiWordNumbers : Obligations.AddcChainAddsMultiWordNumbers := by
  intro ps s hne hdst hsrc hn
  obtain ⟨hm, hu⟩ := hn
  obtain ⟨t, hrun, hwords⟩ := isChainOf_addc_add.execAll_chain hne hdst hsrc hm
  have hmod := hwords.result_mod hu
  rw [one_mul] at hmod
  exact ⟨t, hrun, by exact_mod_cast hmod, hwords.others, hwords.ended, hwords.memory⟩

/-- Settles O49, by the chain rule with sign -1. -/
theorem subcChainSubtractsMultiWordNumbers : Obligations.SubcChainSubtractsMultiWordNumbers := by
  intro ps s hne hdst hsrc hn
  obtain ⟨hm, hu⟩ := hn
  obtain ⟨t, hrun, hwords⟩ := isChainOf_subc_sub.execAll_chain hne hdst hsrc hm
  have hmod := hwords.result_mod hu
  rw [neg_one_mul, ← sub_eq_add_neg] at hmod
  exact ⟨t, hrun, hmod, hwords.others, hwords.ended, hwords.memory⟩

end

section
/-! The family of 45_logic_shift.md: `xor`, `and`, `or` (R190 to R196) and `shl`, `shr`, `asr` (R197 to R203). All of
them end in `writeBack`; the two forms differ in the second operand and in what admits them (R122). -/

namespace Sys2Proof.Machine

section
variable {i : Instr} {s : State} {rd : RegNum} {v : Word}

theorem writesOnly_of_noPrefix (hn : NoPrefix s) (he : exec i s = admitted i s (writeBack s rd v)) :
    ∃ t, exec i s = .next t ∧ WritesOnly rd v s t :=
  writesOnly_of_admitted (admit_of_noPrefix i hn) he

/-- An ri6 instruction is admitted unless a carry is pending (R122). -/
theorem admit_of_format_ri6 (hu : s.uc = false) (hf : i.format = .ri6) : admission i s = none :=
  admit_of_immediate hu (by simp [hf]) (by simp [hf])

theorem writesOnly_of_format_ri6 (hu : s.uc = false) (hf : i.format = .ri6)
    (he : exec i s = admitted i s (writeBack s rd v)) : ∃ t, exec i s = .next t ∧ WritesOnly rd v s t :=
  writesOnly_of_admitted (admit_of_format_ri6 hu hf) he

end

end Sys2Proof.Machine

/-! ## The obligations -/

open Sys2Proof Sys2Proof.Machine

/-- Settles O51: the values asked for are those of the model's three shifts by `x[rs]`, and the register form is admitted
with no prefix pending. -/
theorem shiftRegisterResults : Obligations.ShiftRegisterResults := by
  rintro s rd rs _ hn rfl
  rw [← shiftLeft_eq_mul, ← shiftRight_eq_div, ← shiftArith_eq_div]
  exact ⟨writesOnly_of_noPrefix hn rfl, writesOnly_of_noPrefix hn rfl, writesOnly_of_noPrefix hn rfl⟩

/-- Settles O52: the same three shifts, by the effective immediate; the immediate form is admitted unless a carry is
pending. -/
theorem shiftImmediateResults : Obligations.ShiftImmediateResults := by
  rintro s rd imm6 _ hu rfl
  rw [← shiftLeft_eq_mul, ← shiftRight_eq_div, ← shiftArith_eq_div]
  exact ⟨writesOnly_of_format_ri6 hu rfl rfl, writesOnly_of_format_ri6 hu rfl rfl, writesOnly_of_format_ri6 hu rfl rfl⟩

/-- Settles O50: both forms write back the bitwise result of `x[rd]` with the second operand. -/
theorem logicResults : Obligations.LogicResults :=
  fun _ _ _ _ =>
    ⟨fun hn => ⟨writesOnly_of_noPrefix hn rfl, writesOnly_of_noPrefix hn rfl, writesOnly_of_noPrefix hn rfl⟩,
      fun hu => ⟨writesOnly_of_format_ri6 hu rfl rfl, writesOnly_of_format_ri6 hu rfl rfl,
        writesOnly_of_format_ri6 hu rfl rfl⟩⟩

end

section
/-! The family of 46_skip.md: the six `if.cc` in both forms (R210 to R223), and `if.cc` before a `jump` (R224). All of
the twelve end in `skipUnless`; the two forms differ in the second operand and in what admits them (R122). -/

namespace Sys2Proof.Machine

/-! ## The comparisons (R216 to R223) -/

theorem signedLess_iff (a b : Word) : signedLess a b = true ↔ a.toInt < b.toInt :=
  decide_eq_true_iff

theorem not_signedLess_iff (a b : Word) : (!signedLess a b) = true ↔ b.toInt ≤ a.toInt := by
  rw [Bool.not_eq_true', ← Bool.not_eq_true, signedLess_iff, Int.not_lt]

theorem unsignedLess_iff (a b : Word) : unsignedLess a b = true ↔ a.toNat < b.toNat :=
  decide_eq_true_iff

theorem not_unsignedLess_iff (a b : Word) : (!unsignedLess a b) = true ↔ b.toNat ≤ a.toNat := by
  rw [Bool.not_eq_true', ← Bool.not_eq_true, unsignedLess_iff, Nat.not_lt]

/-! ## An admitted `if.cc` (R122, R211) -/

section
variable {i : Instr} {s : State} {cond : Bool} {P : Prop}

theorem testsOnly_of_admitted (ha : admission i s = none) (he : exec i s = admitted i s (skipUnless s cond))
    (hcond : cond = true ↔ P) : ∃ t, exec i s = .next t ∧ TestsOnly P s t := by
  obtain ⟨t, hskip, htests⟩ := testsOnly_skipUnless s hcond
  exact ⟨t, (he.trans (admitted_of_none _ ha)).trans hskip, htests⟩

theorem testsOnly_of_noPrefix (hn : NoPrefix s) (he : exec i s = admitted i s (skipUnless s cond))
    (hcond : cond = true ↔ P) : ∃ t, exec i s = .next t ∧ TestsOnly P s t :=
  testsOnly_of_admitted (admit_of_noPrefix i hn) he hcond

theorem testsOnly_of_format_ri6 (hu : s.uc = false) (hf : i.format = .ri6)
    (he : exec i s = admitted i s (skipUnless s cond)) (hcond : cond = true ↔ P) :
    ∃ t, exec i s = .next t ∧ TestsOnly P s t :=
  testsOnly_of_admitted (admit_of_format_ri6 hu hf) he hcond

end

/-! ## A `jump` behind an `if.cc` (R224) -/

theorem exec_jumpI11_of_noPrefix {s : State} (hn : NoPrefix s) (imm11 : BitVec 11) :
    ∃ t, exec (.jumpI11 imm11) s = .next t ∧ JumpsOnly (s.pc + 1#16 + imm11.signExtend 16) s t := by
  have htarget : relTarget s imm11 = s.pc + 1#16 + imm11.signExtend 16 := by
    rw [relTarget, immI11, effImm_native hn.1, State.pcn]
  rw [← htarget]
  exact jumpsOnly_of_admitted (admit_of_noPrefix _ hn) rfl

theorem SameLines.stopped_eq {s t : State} (h : SameLines s t) : t.stopped = s.stopped := by
  obtain ⟨hhalt, herror, -⟩ := h
  rw [State.stopped, State.stopped, hhalt, herror]

/-- Behind an `if.cc` of any condition a `jump` is executed if the condition is true, and else skipped. -/
theorem TestsOnly.step_jump {P : Prop} [Decidable P] {s t : State} {w : Word} {imm11 : BitVec 11}
    (h : TestsOnly P s t) (hs : s.stopped = false) (hk : s.skip = false) (hw : s.instrAt (s.pc + 1#16) = some w)
    (hd : decode w = .jumpI11 imm11) :
    ∃ u, step t = .next u ∧ u.skip = false ∧ SameRegs s u ∧ SameMemory s u ∧
      u.pc = if P then s.pc + 2#16 + imm11.signExtend 16 else s.pc + 2#16 := by
  obtain ⟨htrue, hfalse, hregs, hpc, ⟨himmv, huc, -⟩, hmem, hlines, -⟩ := h
  have hst : t.stopped = false := hlines.stopped_eq.trans hs
  have hwt : t.instrAt t.pc = some w := by
    obtain ⟨-, -, -, htext⟩ := hlines
    rw [htext, hpc, hw]
  by_cases hP : P
  · have hkt : t.skip = false := (htrue hP).trans hk
    obtain ⟨u, hjump, hregs', hpc', -, hmem', -, hskip', -⟩ := exec_jumpI11_of_noPrefix ⟨himmv, huc⟩ imm11
    refine ⟨u, ?_, hskip'.trans hkt, fun r => (hregs' r).trans (hregs r), fun a => (hmem' a).trans (hmem a), ?_⟩
    · rw [step_of_exec hst hkt hwt, hd, hjump]
    · rw [if_pos hP, hpc', hpc, add_one_add_ofNat]
  · have hstep : step t = .next (skipOver (.jumpI11 imm11) t) := by
      rw [step_of_skip hst (hfalse hP) hwt (hd ▸ rfl), hd]
    refine ⟨_, hstep, rfl, hregs, hmem, ?_⟩
    rw [if_neg hP, skipOver_pc, hpc, add_one_add_ofNat]

end Sys2Proof.Machine

/-! ## The obligations -/

open Sys2Proof Sys2Proof.Machine

/-- Settles O53: the register form is admitted with no prefix pending, and each of the model's Bools decides its
comparison. -/
theorem ifRegisterResults : Obligations.IfRegisterResults :=
  fun _ _ _ hn =>
    ⟨testsOnly_of_noPrefix hn rfl beq_iff_eq, testsOnly_of_noPrefix hn rfl bne_iff_ne,
      testsOnly_of_noPrefix hn rfl (signedLess_iff _ _), testsOnly_of_noPrefix hn rfl (not_signedLess_iff _ _),
      testsOnly_of_noPrefix hn rfl (unsignedLess_iff _ _), testsOnly_of_noPrefix hn rfl (not_unsignedLess_iff _ _)⟩

/-- Settles O54: the same comparisons with the effective immediate; the immediate form is admitted unless a carry is
pending. -/
theorem ifImmediateResults : Obligations.IfImmediateResults :=
  fun _ _ _ hu =>
    ⟨testsOnly_of_format_ri6 hu rfl rfl beq_iff_eq, testsOnly_of_format_ri6 hu rfl rfl bne_iff_ne,
      testsOnly_of_format_ri6 hu rfl rfl (signedLess_iff _ _),
      testsOnly_of_format_ri6 hu rfl rfl (not_signedLess_iff _ _),
      testsOnly_of_format_ri6 hu rfl rfl (unsignedLess_iff _ _),
      testsOnly_of_format_ri6 hu rfl rfl (not_unsignedLess_iff _ _)⟩

/-- Settles O58: the first step tests, and the second executes or skips the `jump`. -/
theorem ifThenJumpIsAConditionalBranch : Obligations.IfThenJumpIsAConditionalBranch := by
  intro s w1 w2 rd rs imm11 hs hk hn hw1 hd1 hw2 hd2
  obtain ⟨t, hexec, htests⟩ := (ifRegisterResults s rd rs hn).1
  have hfirst : step s = .next t := by rw [step_of_exec hs hk hw1, hd1, hexec]
  obtain ⟨u, hsecond, hbranch⟩ := htests.step_jump hs hk hw2 hd2
  refine ⟨u, ?_, hbranch⟩
  rw [runFor_succ_of_next 1 hfirst, runFor_succ_of_next 0 hsecond, runFor_zero]

end

section
/-! The family of 60_exceptions.md: what can stop an executed instruction (R230), and behind which steps an interrupt may be
taken (R236, R239). -/

namespace Sys2Proof.Machine

/-! ## Where an executed instruction faults (U16, log 6) -/

/-- A word that does not read lacks one of its bytes. -/
theorem State.byte_eq_none_of_readWord {s : State} {a : Word} (h : s.readWord a = none) :
    s.readByte a = none ∨ s.readByte (a + 1#16) = none := by
  cases h0 : s.readByte a with
  | none => exact .inl rfl
  | some b0 =>
    cases h1 : s.readByte (a + 1#16) with
    | none => exact .inr rfl
    | some b1 => exact nomatch (State.readWord_of_bytes h0 h1).symm.trans h

section
variable {i : Instr} {s : State} {f : Fault} {rd rs : RegNum} {imm4 : BitVec 4}

theorem isLoad_of_exec_fault (h : exec i s = .fault f) :
    (∃ rd rs imm4, i = .load rd rs imm4) ∨ ∃ rd rs imm4, i = .loadb rd rs imm4 := by
  cases i
  case load rd rs imm4 => exact .inl ⟨rd, rs, imm4, rfl⟩
  case loadb rd rs imm4 => exact .inr ⟨rd, rs, imm4, rfl⟩
  case reservedOp9or11 => cases h
  case reservedOp12to15 => cases h
  case reservedBit7 => cases h
  all_goals exact nomatch (admitted_eq_fault.mp h).2

theorem byte_eq_none_of_exec_load_fault (h : exec (.load rd rs imm4) s = .fault f) :
    f = .noByte ∧ (s.readByte (wordAddr s rs imm4) = none ∨ s.readByte (wordAddr s rs imm4 + 1#16) = none) := by
  obtain ⟨-, hload⟩ := admitted_eq_fault.mp h
  obtain ⟨hv, hf⟩ := loadInto_eq_fault.mp hload
  exact ⟨hf, State.byte_eq_none_of_readWord hv⟩

theorem byte_eq_none_of_exec_loadb_fault (h : exec (.loadb rd rs imm4) s = .fault f) :
    f = .noByte ∧ s.readByte (byteAddr s rs imm4) = none := by
  obtain ⟨-, hload⟩ := admitted_eq_fault.mp h
  obtain ⟨hv, hf⟩ := loadInto_eq_fault.mp hload
  exact ⟨hf, Option.map_eq_none_iff.mp hv⟩

end

/-! ## When an interrupt may be taken (R236, R239) -/

theorem interruptAdmitted_iff (t : State) :
    interruptAdmitted t = true ↔ NoPrefix t ∧ t.skip = false ∧ t.stopped = false := by
  simp [interruptAdmitted, NoPrefix, and_assoc]

theorem interruptAdmitted_of_skip {t : State} (hk : t.skip = true) : interruptAdmitted t = false := by
  simp [interruptAdmitted, hk]

theorem interruptAdmitted_of_pending {t : State} (h : t.immv = true ∨ t.uc = true) : interruptAdmitted t = false := by
  obtain h | h := h <;> simp [interruptAdmitted, h]

/-- The step of a core that is not stopped skips the instruction at its pc, or executes it. -/
theorem skipped_or_executed_of_step {s t : State} {w : Word} (hs : s.stopped = false) (hw : s.instrAt s.pc = some w)
    (h : step s = .next t) :
    (s.skip = true ∧ t = skipOver (decode w) s) ∨ (s.skip = false ∧ exec (decode w) s = .next t) := by
  obtain ⟨hstop, -⟩ | ⟨w', -, hw', hcases⟩ := step_cases h
  · simp [hs] at hstop
  · obtain rfl : w' = w := Option.some.inj (hw'.symm.trans hw)
    exact hcases.imp_left fun ⟨hk, _, ht⟩ => ⟨hk, ht⟩

section
variable {i : Instr} {s t : State}

/-- Behind an executed prefix instruction an immediate or a carry is pending. -/
theorem pending_of_exec_isPrefix (h : exec i s = .next t) (hp : i.isPrefix = true) : t.immv = true ∨ t.uc = true := by
  by_cases himm : ∃ v, i = .imm v
  · obtain ⟨v, rfl⟩ := himm
    rw [exec_imm_eq_next h]
    exact .inl rfl
  · obtain ⟨-, huc⟩ := carry_pending_of_exec_isPrefix h hp (not_exists.mp himm)
    exact .inr huc

theorem stopped_of_exec_halt (h : exec .halt s = .next t) : t.stopped = true := by
  obtain ⟨-, rfl⟩ := exec_halt_eq_next h
  rfl

theorem stopped_of_exec_error (h : exec .error s = .next t) : t.stopped = true := by
  obtain ⟨-, rfl⟩ := exec_error_eq_next h
  exact Bool.or_true s.halt

theorem prefixEnded_of_exec_of_not_stopped (h : exec i s = .next t) (hp : i.isPrefix = false) (ht : t.stopped = false) :
    PrefixEnded t := by
  refine (exec_effect h).prefixEnded hp ?_ ?_
  · rintro rfl
    simp [stopped_of_exec_halt h] at ht
  · rintro rfl
    simp [stopped_of_exec_error h] at ht

end

end Sys2Proof.Machine

/-! ## The obligations -/

open Sys2Proof Sys2Proof.Machine

/-- Settles O14: no meaning but those of the two loads can fault, and a load faults where its value is missing. -/
theorem onlyLoadsOfUnwrittenBytesFault : Obligations.OnlyLoadsOfUnwrittenBytesFault := by
  intro i s f h
  obtain ⟨rd, rs, imm4, rfl⟩ | ⟨rd, rs, imm4, rfl⟩ := isLoad_of_exec_fault h
  · obtain ⟨hf, hnone⟩ := byte_eq_none_of_exec_load_fault h
    exact ⟨hf, .inl ⟨rd, rs, imm4, rfl, hnone⟩⟩
  · obtain ⟨hf, hnone⟩ := byte_eq_none_of_exec_loadb_fault h
    exact ⟨hf, .inr ⟨rd, rs, imm4, rfl, hnone⟩⟩

/-- Settles O26: a skipped prefix instruction leaves `SKIP` set and an executed one leaves `IMMV` or `UC` set; every other
executed instruction that does not stop the core ends the prefix state. -/
theorem interruptsWaitForPrefixAndSkip : Obligations.InterruptsWaitForPrefixAndSkip := by
  intro s t w hs hw h
  refine ⟨fun hp => ?_, fun _ _ hk => interruptAdmitted_of_skip hk, fun hk hp hkt hst => ?_⟩
  · obtain ⟨-, rfl⟩ | ⟨-, he⟩ := skipped_or_executed_of_step hs hw h
    · exact interruptAdmitted_of_skip hp
    · exact interruptAdmitted_of_pending (pending_of_exec_isPrefix he hp)
  · rw [step_of_exec hs hk hw] at h
    obtain ⟨himmv, huc, hc⟩ := prefixEnded_of_exec_of_not_stopped h hp hst
    exact ⟨(interruptAdmitted_iff t).mpr ⟨⟨himmv, huc⟩, hkt, hst⟩, himmv, huc, hc⟩

end
